-- ==== Sys2Proof/Config.lean ====
section
/-!
DEFINITION. The parameters of 00_scope R8: the register width `W`, which the state and every meaning
take as an argument, with R8's value for this hardware as its default; and the table `DEFREL` of default
reduction relations. Neither is state (10_state R37).
-/
namespace Sys2Proof.Config

/-- The value R8 gives `W` for this hardware, 128 (log entry 1). It is the default of the width argument
of `State` and of its parts; every operation and every command takes that argument. -/
abbrev W : Nat := 128

/-- The open content of `DEFREL` (R8, D22: "OPEN"): the spec gives no polynomial, so this constant has
no body and no proof can know its values (DESIGN CHOICE of form, safe; log entry 2). -/
opaque defRelChoice : Nat → Option Nat

/-- `DEFREL` (R8): a partial map from the sizes 8, 16 and 256 to non-zero `w`-bit polynomials. Whatever
`defRelChoice` is, an entry outside that description is no entry. -/
def defRel (base : Nat) (w : Nat := W) : Option Nat :=
  if base = 8 ∨ base = 16 ∨ base = 256 then
    (defRelChoice base).filter fun rel => decide (0 < rel ∧ rel < 2 ^ w)
  else none

end Sys2Proof.Config
end

