-- ==== Sys2Proof/Word.lean ====
section
/-!
DEFINITION. The word types of PCT-CORE: `w`-bit unsigned values, command words, register indices.
-/
namespace Sys2Proof

/-- A `w`-bit unsigned value: a magnitude, a coordinate or a wide CSR (10_state R21, R23, R29). -/
abbrev Word (w : Nat := Config.W) := BitVec w

/-- A 32-bit value: a command word, `STATUS` or `CTRL` (30_encoding R70, 10_state R32, R33). -/
abbrev CmdWord := BitVec 32

/-- A 4-bit register index; every value names a register (20_memory R60, 30_encoding R72). -/
abbrev RegIdx := Fin 16

end Sys2Proof
end

