-- ==== Sys2Proof/Syntax.lean ====
section
/-!
DEFINITION. The 25 commands of 30_encoding R73, one constructor per row of the opcode table. The
arguments are the register fields the row uses, in field order A, B, C, D, E; whether a field names
an X or a P register is fixed per command by the same table.
-/
namespace Sys2Proof

/-- A command of PCT-CORE. -/
inductive Instr where
  /-- R90: clears `ERR`. -/
  | nop
  /-- R96: `A` = Xd, `B` = Xs base, `C` = Xs exponent, `D` = Xs modulus. -/
  | powmod (a b c d : RegIdx)
  /-- R101: `A` = Xd, `B` = Xs polynomial, `C` = Xs relation. -/
  | redpoly (a b c : RegIdx)
  /-- R107: `A` = Xd, `B` = Xs a, `C` = Xs b. -/
  | gcd (a b c : RegIdx)
  /-- R108: `A` = Xd g, `B` = Xd x, `C` = Xd y, `D` = Xs a, `E` = Xs b. -/
  | xgcd (a b c d e : RegIdx)
  /-- R115: `B` = Xs base. -/
  | fldnew (b : RegIdx)
  /-- R116: `B` = Xs base, `C` = Xs relation. -/
  | fldnewr (b c : RegIdx)
  /-- R119: `A` = Xd, `B` = Xs n. -/
  | fred (a b : RegIdx)
  /-- R121: `A` = Xd, `B` = Xs x, `C` = Xs y. -/
  | fadd (a b c : RegIdx)
  /-- R122: `A` = Xd, `B` = Xs x, `C` = Xs y. -/
  | fmul (a b c : RegIdx)
  /-- R123: `A` = Xd, `B` = Xs base, `C` = Xs exponent. -/
  | fpow (a b c : RegIdx)
  /-- R125: `A` = Xd, `B` = Xs x. -/
  | fneg (a b : RegIdx)
  /-- R127: `A` = Xd, `B` = Xs x. -/
  | finv (a b : RegIdx)
  /-- R129: `A` = Xd, `B` = Xs dividend, `C` = Xs divisor. -/
  | fdiv (a b c : RegIdx)
  /-- R142: `A` = Xd w1, `B` = Xd w2, `C` = Xs a. -/
  | fsqrt (a b c : RegIdx)
  /-- R131: `A` = Xd. -/
  | fchar (a : RegIdx)
  /-- R151: `B` = Xs a, `C` = Xs b. -/
  | ecnew (b c : RegIdx)
  /-- R153: `A` = Pd, `B` = Xs r, `C` = Xs s. -/
  | ecpoint (a b c : RegIdx)
  /-- R154: `B` = Xs r, `C` = Xs s. -/
  | ecchk (b c : RegIdx)
  /-- R155: `A` = Pd. -/
  | ecinf (a : RegIdx)
  /-- R157: `A` = Pd, `B` = Ps p1, `C` = Ps p2. -/
  | ecadd (a b c : RegIdx)
  /-- R159: `A` = Pd, `B` = Ps p. -/
  | ecneg (a b : RegIdx)
  /-- R161: `A` = Pd, `B` = Ps p, `C` = Xs n. -/
  | ecmul (a b c : RegIdx)
  /-- R162: `A` = Xd r, `B` = Xd s, `C` = Ps p. -/
  | ecget (a b c : RegIdx)
  /-- R163: `B` = Ps p1, `C` = Ps p2. -/
  | eceq (b c : RegIdx)
deriving DecidableEq, Repr

end Sys2Proof
end

