-- ==== Sys2Proof/WellFormed.lean ====
section
/-!
DEFINITION. Which commands are well formed: the destination rule of 30_encoding R75. Every other
condition on a command word is a condition on its bits, and lies in `Decode`.
-/
namespace Sys2Proof

/-- R75: the destination indices of `XGCD`, `FSQRT` and `ECGET` are pairwise different. A command that
breaks this still matches its row (R74), and ends with `IllegalCommand` in phase 2. -/
def Instr.wellFormed : Instr → Bool
  | .xgcd a b c _ _ => a != b && a != c && b != c
  | .fsqrt a b _ => a != b
  | .ecget a b _ => a != b
  | .nop | .powmod _ _ _ _ | .redpoly _ _ _ | .gcd _ _ _ => true
  | .fldnew _ | .fldnewr _ _ | .fred _ _ | .fadd _ _ _ | .fmul _ _ _ | .fpow _ _ _ => true
  | .fneg _ _ | .finv _ _ | .fdiv _ _ _ | .fchar _ => true
  | .ecnew _ _ | .ecpoint _ _ _ | .ecchk _ _ | .ecinf _ | .ecadd _ _ _ | .ecneg _ _ => true
  | .ecmul _ _ _ | .eceq _ _ => true

end Sys2Proof
end

