-- ==== Sys2Proof/Decode.lean ====
section
/-!
DEFINITION. The command word: its fields (30_encoding R71), the opcode map (R73), the decoder (R79,
total on 32-bit words) and the encoder.
-/
namespace Sys2Proof

/-- R71: `{op, A, B, C, D, E, Z}` with `Z = 0`, the word of a command with these fields. -/
def packWord (op : BitVec 8) (a b c d e : RegIdx) : CmdWord :=
  op ++ BitVec.ofFin (w := 4) a ++ BitVec.ofFin (w := 4) b ++ BitVec.ofFin (w := 4) c ++
    BitVec.ofFin (w := 4) d ++ BitVec.ofFin (w := 4) e ++ 0#4

/-- R71, R72: the 4-bit register field whose lowest bit is bit `lo`. -/
def regField (w : CmdWord) (lo : Nat) : RegIdx := (w.extractLsb' lo 4).toFin

/-- One row of the opcode map of R73; `build` reads the register fields A, B, C, D, E. -/
structure Row where
  mnemonic : String
  mask : CmdWord
  pattern : CmdWord
  build : RegIdx → RegIdx → RegIdx → RegIdx → RegIdx → Instr

/-- R73, the system and leaf commands. -/
def leafRows : List Row :=
  [⟨"NOP", 0xFFFFFFFF#32, 0x00000000#32, fun _ _ _ _ _ => .nop⟩,
   ⟨"POWMOD", 0xFF0000FF#32, 0x10000000#32, fun a b c d _ => .powmod a b c d⟩,
   ⟨"REDPOLY", 0xFF000FFF#32, 0x11000000#32, fun a b c _ _ => .redpoly a b c⟩,
   ⟨"GCD", 0xFF000FFF#32, 0x12000000#32, fun a b c _ _ => .gcd a b c⟩,
   ⟨"XGCD", 0xFF00000F#32, 0x13000000#32, fun a b c d e => .xgcd a b c d e⟩]

/-- R73, the field commands. -/
def fieldRows : List Row :=
  [⟨"FLDNEW", 0xFFF0FFFF#32, 0x20000000#32, fun _ b _ _ _ => .fldnew b⟩,
   ⟨"FLDNEWR", 0xFFF00FFF#32, 0x21000000#32, fun _ b c _ _ => .fldnewr b c⟩,
   ⟨"FRED", 0xFF00FFFF#32, 0x22000000#32, fun a b _ _ _ => .fred a b⟩,
   ⟨"FADD", 0xFF000FFF#32, 0x23000000#32, fun a b c _ _ => .fadd a b c⟩,
   ⟨"FMUL", 0xFF000FFF#32, 0x24000000#32, fun a b c _ _ => .fmul a b c⟩,
   ⟨"FPOW", 0xFF000FFF#32, 0x25000000#32, fun a b c _ _ => .fpow a b c⟩,
   ⟨"FNEG", 0xFF00FFFF#32, 0x26000000#32, fun a b _ _ _ => .fneg a b⟩,
   ⟨"FINV", 0xFF00FFFF#32, 0x27000000#32, fun a b _ _ _ => .finv a b⟩,
   ⟨"FDIV", 0xFF000FFF#32, 0x28000000#32, fun a b c _ _ => .fdiv a b c⟩,
   ⟨"FSQRT", 0xFF000FFF#32, 0x29000000#32, fun a b c _ _ => .fsqrt a b c⟩,
   ⟨"FCHAR", 0xFF0FFFFF#32, 0x2A000000#32, fun a _ _ _ _ => .fchar a⟩]

/-- R73, the curve commands. -/
def curveRows : List Row :=
  [⟨"ECNEW", 0xFFF00FFF#32, 0x30000000#32, fun _ b c _ _ => .ecnew b c⟩,
   ⟨"ECPOINT", 0xFF000FFF#32, 0x31000000#32, fun a b c _ _ => .ecpoint a b c⟩,
   ⟨"ECCHK", 0xFFF00FFF#32, 0x32000000#32, fun _ b c _ _ => .ecchk b c⟩,
   ⟨"ECINF", 0xFF0FFFFF#32, 0x33000000#32, fun a _ _ _ _ => .ecinf a⟩,
   ⟨"ECADD", 0xFF000FFF#32, 0x34000000#32, fun a b c _ _ => .ecadd a b c⟩,
   ⟨"ECNEG", 0xFF00FFFF#32, 0x35000000#32, fun a b _ _ _ => .ecneg a b⟩,
   ⟨"ECMUL", 0xFF000FFF#32, 0x36000000#32, fun a b c _ _ => .ecmul a b c⟩,
   ⟨"ECGET", 0xFF000FFF#32, 0x37000000#32, fun a b c _ _ => .ecget a b c⟩,
   ⟨"ECEQ", 0xFFF00FFF#32, 0x38000000#32, fun _ b c _ _ => .eceq b c⟩]

/-- R73: the opcode map, in table order. -/
def opcodeRows : List Row := leafRows ++ fieldRows ++ curveRows

/-- R73: a word is the command exactly when `w and mask = match`. -/
def Row.fits (r : Row) (w : CmdWord) : Bool := w &&& r.mask == r.pattern

/-- Why a word is no command (R74): its `op` is not in the table, or `Z` or a field that the command
does not use is not zero. Both end with the same typed error. -/
inductive IllegalWord where
  | unassignedOpcode
  | reservedBitsSet
deriving DecidableEq, Repr

/-- R79: the first row of the table that fits, its fields read; a word that fits none is illegal. -/
def decode (w : CmdWord) : Except IllegalWord Instr :=
  match opcodeRows.find? (·.fits w) with
  | some r =>
      .ok (r.build (regField w 20) (regField w 16) (regField w 12) (regField w 8) (regField w 4))
  | none =>
      if opcodeRows.any (fun r => r.pattern.extractLsb' 24 8 == w.extractLsb' 24 8) then
        .error .reservedBitsSet
      else .error .unassignedOpcode

/-- The word of a command, from the same table: every field the command does not use is zero (R73). -/
def encode : Instr → CmdWord
  | .nop => packWord 0x00 0 0 0 0 0
  | .powmod a b c d => packWord 0x10 a b c d 0
  | .redpoly a b c => packWord 0x11 a b c 0 0
  | .gcd a b c => packWord 0x12 a b c 0 0
  | .xgcd a b c d e => packWord 0x13 a b c d e
  | .fldnew b => packWord 0x20 0 b 0 0 0
  | .fldnewr b c => packWord 0x21 0 b c 0 0
  | .fred a b => packWord 0x22 a b 0 0 0
  | .fadd a b c => packWord 0x23 a b c 0 0
  | .fmul a b c => packWord 0x24 a b c 0 0
  | .fpow a b c => packWord 0x25 a b c 0 0
  | .fneg a b => packWord 0x26 a b 0 0 0
  | .finv a b => packWord 0x27 a b 0 0 0
  | .fdiv a b c => packWord 0x28 a b c 0 0
  | .fsqrt a b c => packWord 0x29 a b c 0 0
  | .fchar a => packWord 0x2A a 0 0 0 0
  | .ecnew b c => packWord 0x30 0 b c 0 0
  | .ecpoint a b c => packWord 0x31 a b c 0 0
  | .ecchk b c => packWord 0x32 0 b c 0 0
  | .ecinf a => packWord 0x33 a 0 0 0 0
  | .ecadd a b c => packWord 0x34 a b c 0 0
  | .ecneg a b => packWord 0x35 a b 0 0 0
  | .ecmul a b c => packWord 0x36 a b c 0 0
  | .ecget a b c => packWord 0x37 a b c 0 0
  | .eceq b c => packWord 0x38 0 b c 0 0

/-- The instruction this decoder reads from a table row's word: one 32-bit word, given whole (there is
no byte order to settle, 20_memory R59). -/
def decodeTableWord (nbits w : Nat) : Option Instr :=
  (decode (BitVec.ofNat 32 (w % 2 ^ nbits))).toOption

end Sys2Proof
end

