-- ==== Sys2Proof/Machine/State.lean ====
section
/-!
DEFINITION. The architectural state of PCT-CORE (10_state), the ways a step can stop, and the state
after reset (10_state R36, 70_reset_and_hazards R200, R201).
-/
namespace Sys2Proof.Machine

/-- Nothing in PCT-CORE stops the machine with a fault: a failing command completes with a typed error
or enters the fatal state (60_exceptions R180), both of which are next states, and every command
terminates (70_reset_and_hazards R206). So there is no constructor. -/
inductive Fault where
deriving DecidableEq, Repr

/-- Why a command is refused. No arm of `exec` and no definition raises it. -/
inductive Refusal where
  /-- Raised by an arm of `exec` whose command has no meaning yet (none is left); safe. -/
  | notModelled (mnemonic : String)
deriving DecidableEq, Repr

/-- The outcome of a step or of a command. -/
abbrev Result (σ : Type) := Host.Outcome σ Fault Refusal

/-- STATUS.STATE (10_state R32); the fourth code never occurs. -/
inductive Phase where
  | idle
  | busy
  | fatal
deriving DecidableEq, Repr

/-- What a data register stores (10_state R21): a sign bit and a `W`-bit magnitude. -/
structure SignMag (w : Nat := Config.W) where
  neg : Bool
  mag : Word w
deriving DecidableEq, Repr

/-- The tag of a point register (10_state R23, R24). -/
inductive Tag where
  | empty
  | valid
  | staleCurve
  | staleField
deriving DecidableEq, Repr

/-- What a point register stores (10_state R23). -/
structure PointReg (w : Nat := Config.W) where
  tag : Tag
  inf : Bool
  r : Word w
  s : Word w
deriving DecidableEq, Repr

/-- The typed errors (60_exceptions R182), in the order of their codes 1 to 14. -/
inductive TypedError where
  | invalidField
  | singularCurve
  | pointNotOnCurve
  | noInverse
  | divisionByZero
  | noRoot
  | pointsNotSameField
  | pointsNotSameCurve
  | invalidScalar
  | illegalCommand
  | invalidOperand
  | resultRange
  | notConfigured
  | unsupportedField
deriving DecidableEq, Repr

/-- The fatal causes (60_exceptions R187), in the order of their codes 1 and 2. -/
inductive FatalCause where
  | negativeNonPrimeReduce
  | addCaseFallThrough
deriving DecidableEq, Repr

/-- The seven host operations (20_memory R51). The operand ranges of R52 are the types' ranges. -/
inductive HostOp (w : Nat := Config.W) where
  | writeX (i : RegIdx) (neg : Bool) (mag : Word w)
  | readX (i : RegIdx)
  | readP (i : RegIdx)
  | readCSR (n : Fin 16)
  | writeCTRL (v : BitVec 32)
  | issue (word : CmdWord)
  | reset
deriving DecidableEq, Repr

/-- A host operation still to come. `early` says that it arrives while the command before it is still
`BUSY`; how long a command takes is open (70_reset_and_hazards R205), so this mark is input data (log
entry 5). It says nothing when the block is not `BUSY`. -/
structure Request (w : Nat := Config.W) where
  early : Bool
  op : HostOp w
deriving DecidableEq, Repr

/-- What the host port answers to a host operation (20_memory R51 to R58; the form is the model's own,
log entry 4). -/
inductive Reply (w : Nat := Config.W) where
  /-- No host operation has been taken yet. -/
  | none
  /-- The operation happened and returns no value. -/
  | done
  /-- The operation is not accepted in this `STATE` and did not happen (R51). -/
  | notAccepted
  /-- The value of `HReadX` (R53). -/
  | dataReg (neg : Bool) (mag : Word w)
  /-- The value of `HReadP` (R54). -/
  | pointReg (p : PointReg w)
  /-- The value of `HReadCSR` (R55), 32 bits or `W` bits wide. -/
  | csr (value : Nat)
deriving DecidableEq, Repr

/-- The state of PCT-CORE with registers of width `w` (00_scope R8). `port` and `reply` are the
model's own; every other field is the spec's. -/
structure State (w : Nat := Config.W) where
  /-- `X0` to `X15` (10_state R21). -/
  x : Vector (SignMag w) 16
  /-- `P0` to `P15` (10_state R23). -/
  p : Vector (PointReg w) 16
  /-- STATUS.STATE (10_state R32). -/
  phase : Phase
  /-- STATUS.FV: a field has been constructed (10_state R30). -/
  fv : Bool
  /-- STATUS.FP: the field base is prime (10_state R30). -/
  fp : Bool
  /-- STATUS.RELV: a reduction relation is stored (10_state R30). -/
  relv : Bool
  /-- STATUS.CHV: `FCHR` holds the characteristic (10_state R30). -/
  chv : Bool
  /-- STATUS.CV: a curve has been constructed (10_state R31). -/
  cv : Bool
  /-- STATUS.FLAG, the boolean result (10_state R28). -/
  flag : Bool
  /-- STATUS.ERR (60_exceptions R182). -/
  err : BitVec 8
  /-- STATUS.FCAUSE (60_exceptions R187). -/
  fcause : BitVec 8
  /-- CTRL.VERBOSE (10_state R33). -/
  verbose : Bool
  /-- `FBASE`, CSR 2 (10_state R30). -/
  fbase : Word w
  /-- `FREL`, CSR 3 (10_state R30). -/
  frel : Word w
  /-- `FCHR`, CSR 4 (10_state R30). -/
  fchr : Word w
  /-- `CA`, CSR 5 (10_state R31). -/
  ca : Word w
  /-- `CB`, CSR 6 (10_state R31). -/
  cb : Word w
  /-- The command latch `CMD` (10_state R35). -/
  cmd : CmdWord
  /-- The model's own: the host operations still to come (log entries 4 and 5). -/
  port : List (Request w)
  /-- The model's own: the answer to the last host operation (log entry 4). -/
  reply : Reply w
deriving DecidableEq, Repr

/-- The state after reset at width `w` (10_state R36). `cmd` is unspecified there: 0 is the model's
choice (log entry 3), as are the empty `port` and `reply` (log entry 4). -/
def State.resetAt (w : Nat) : State w where
  x := Vector.replicate 16 ⟨false, 0⟩
  p := Vector.replicate 16 ⟨.empty, false, 0, 0⟩
  phase := .idle
  fv := false
  fp := false
  relv := false
  chv := false
  cv := false
  flag := false
  err := 0
  fcause := 0
  verbose := false
  fbase := 0
  frel := 0
  fchr := 0
  ca := 0
  cb := 0
  cmd := 0
  port := []
  reply := .none

/-- The state of this hardware after reset. -/
def State.reset : State := State.resetAt Config.W

end Sys2Proof.Machine
end

