-- ==== Sys2Proof/Machine/Ops.lean ====
section
/-!
DEFINITION. The named operations over the state, for every register width `w` (00_scope R8): register
reads and writes, how a command ends (success, typed error, fatal: 60_exceptions R180, R181, R188),
and the configuration as data.
-/
namespace Sys2Proof.Machine

/-! ### Data registers (10_state R21) -/

/-- R21: `v = -mag` when `neg = 1` and `v = mag` when `neg = 0`. -/
def SignMag.toInt {w : Nat} (d : SignMag w) : Int :=
  if d.neg then -(d.mag.toNat : Int) else (d.mag.toNat : Int)

/-- R21, R52: a sign and a magnitude as stored; negative zero is stored as `+0`. -/
def SignMag.ofParts {w : Nat} (neg : Bool) (mag : Word w) : SignMag w :=
  ⟨neg && mag != 0, mag⟩

/-- A value as stored in a data register. Commands check `|v| < 2^W` first (R186); without that check
the magnitude would lose its high bits. -/
def SignMag.ofInt {w : Nat} (v : Int) : SignMag w :=
  SignMag.ofParts (decide (v < 0)) (BitVec.ofNat w v.natAbs)

/-- `X[i]` as a member of ℤ (00_scope R13). -/
def State.readX {w : Nat} (s : State w) (i : RegIdx) : Int := s.x[i].toInt

/-- `X[i] <- v` (00_scope R13). -/
def State.writeX {w : Nat} (s : State w) (i : RegIdx) (v : Int) : State w :=
  { s with x := s.x.set i (SignMag.ofInt v) }

/-! ### Point registers (10_state R23) -/

/-- `P[i]` (00_scope R13). -/
def State.readP {w : Nat} (s : State w) (i : RegIdx) : PointReg w := s.p[i]

/-- `P[i] <- q` (00_scope R13). -/
def State.writeP {w : Nat} (s : State w) (i : RegIdx) (q : PointReg w) : State w :=
  { s with p := s.p.set i q }

/-- 44_field R117: what a new field does to a tag. -/
def Tag.afterField : Tag → Tag
  | .empty => .empty
  | .valid | .staleCurve | .staleField => .staleField

/-- 46_curve R151: what a new curve does to a tag. -/
def Tag.afterCurve : Tag → Tag
  | .valid => .staleCurve
  | .empty => .empty
  | .staleCurve => .staleCurve
  | .staleField => .staleField

/-- A function applied to every register of a file: `Vector.map`, in a form that Lean's kernel evaluates. -/
def mapRegs {α : Type} (f : α → α) (v : Vector α 16) : Vector α 16 :=
  ⟨⟨v.toArray.toList.map f⟩, by simp⟩

/-- Changes the tag of every point register, and nothing else of it. -/
def State.retag {w : Nat} (s : State w) (f : Tag → Tag) : State w :=
  { s with p := mapRegs (fun q => { q with tag := f q.tag }) s.p }

/-! ### Wide unsigned registers -/

/-- A value as stored in a `W`-bit unsigned register. In every state that keeps 10_state R34 the value
lies in `[0, 2^W)` (60_exceptions R186); elsewhere the low `W` bits are kept (log entry 6). -/
def wordOfInt {w : Nat} (v : Int) : Word w := BitVec.ofInt w v

/-! ### How a command ends -/

/-- The code of a typed error (60_exceptions R182). -/
def TypedError.code : TypedError → BitVec 8
  | .invalidField => 1
  | .singularCurve => 2
  | .pointNotOnCurve => 3
  | .noInverse => 4
  | .divisionByZero => 5
  | .noRoot => 6
  | .pointsNotSameField => 7
  | .pointsNotSameCurve => 8
  | .invalidScalar => 9
  | .illegalCommand => 10
  | .invalidOperand => 11
  | .resultRange => 12
  | .notConfigured => 13
  | .unsupportedField => 14

/-- The code of a fatal cause (60_exceptions R187). -/
def FatalCause.code : FatalCause → BitVec 8
  | .negativeNonPrimeReduce => 1
  | .addCaseFallThrough => 2

/-- The two ways a command or a pure function ends without a result (00_scope R13). -/
inductive Stop where
  | raised (e : TypedError)
  | fatal (c : FatalCause)
deriving DecidableEq, Repr

/-- A computation that may `raise` a typed error or go `fatal` (00_scope R13). The first stop met ends
it, which is the order of checks of 60_exceptions R184. -/
abbrev Alg (α : Type) := Except Stop α

/-- `raise <Name>` (00_scope R13). -/
def raise {α : Type} (e : TypedError) : Alg α := .error (.raised e)

/-- `fatal <Name>` (00_scope R13). -/
def fatal {α : Type} (c : FatalCause) : Alg α := .error (.fatal c)

/-- A check: `raise e` unless the condition holds. -/
def require (ok : Bool) (e : TypedError) : Alg Unit :=
  if ok then .ok () else raise e

/-- Typed-error completion (60_exceptions R181): `ERR` and `STATE`, nothing else. -/
def State.endTyped {w : Nat} (s : State w) (e : TypedError) : State w :=
  { s with err := e.code, phase := .idle }

/-- Fatal entry (60_exceptions R188): `STATE` and `FCAUSE`, nothing else. -/
def State.endFatal {w : Nat} (s : State w) (c : FatalCause) : State w :=
  { s with phase := .fatal, fcause := c.code }

/-- Success (60_exceptions R180 (a), 30_encoding R80 phase 8), on a state whose writes are done. -/
def State.endSuccess {w : Nat} (s : State w) : State w :=
  { s with err := 0, phase := .idle }

/-- The end of a command issued in state `s` (60_exceptions R180): `result` is the state with the
command's writes, or the stop that discards them all (00_scope R13). -/
def State.finish {w : Nat} (s : State w) (result : Alg (State w)) : State w :=
  match result with
  | .ok t => t.endSuccess
  | .error (.raised e) => s.endTyped e
  | .error (.fatal c) => s.endFatal c

/-- A command's meaning: its phases 2 to 8 (30_encoding R80), ended by `State.finish`. Every accepted
command ends (70_reset_and_hazards R206), so the outcome is always a next state. -/
def State.command {w : Nat} (s : State w) (result : Alg (State w)) : Result (State w) :=
  .next (s.finish result)

/-! ### The configuration as data (00_scope R14) -/

/-- The field configuration a pure function reads (10_state R30). -/
structure FieldCfg where
  base : Nat
  prime : Bool
  rel : Nat
deriving DecidableEq, Repr

/-- The curve configuration a pure function reads (10_state R31). -/
structure CurveCfg where
  field : FieldCfg
  a : Nat
  b : Nat
deriving DecidableEq, Repr

/-- The block's field configuration: `FBASE`, `FP`, `FREL`. -/
def State.field {w : Nat} (s : State w) : FieldCfg := ⟨s.fbase.toNat, s.fp, s.frel.toNat⟩

/-- The block's curve configuration: `CA`, `CB` over the block's field. -/
def State.curve {w : Nat} (s : State w) : CurveCfg := ⟨s.field, s.ca.toNat, s.cb.toNat⟩

/-! ### Bits -/

/-- `bitlen(v)` (00_scope R11). -/
def bitlen (v : Nat) : Nat := if v = 0 then 0 else v.log2 + 1

end Sys2Proof.Machine
end

