-- ==== Sys2Proof/Machine/Operands.lean ====
section
/-!
DEFINITION. What every operand form needs: the configuration checks (phase 3 of 30_encoding R80), the
point-tag check (phase 4), the sign checks on X sources (phase 5), the result-range check (phase 7)
and the writes of X and P destinations (phase 8).
-/
namespace Sys2Proof.Machine

/-- 44_field R112: a constructed field is needed. -/
def requireField {w : Nat} (s : State w) : Alg Unit := require s.fv .notConfigured

/-- 46_curve R150: a constructed curve is needed. -/
def requireCurve {w : Nat} (s : State w) : Alg Unit := require s.cv .notConfigured

/-- Phase 5: an X source that must not be negative (60_exceptions R185). -/
def requireNonneg (v : Int) : Alg Unit := require (decide (0 ≤ v)) .invalidOperand

/-- Phase 5: an X source that must be positive (60_exceptions R185: a modulus, a relation). -/
def requirePositive (v : Int) : Alg Unit := require (decide (0 < v)) .invalidOperand

/-- Phase 2: two destination indices that must differ (30_encoding R75). -/
def requireDistinct (i j : RegIdx) : Alg Unit := require (i != j) .illegalCommand

/-- 46_curve R164 on a tag. -/
def checkTag : Tag → Alg Unit
  | .valid => .ok ()
  | .empty => raise .notConfigured
  | .staleField => raise .pointsNotSameField
  | .staleCurve => raise .pointsNotSameCurve

/-- A P source operand: phase 4's check of its tag (46_curve R164), then its record. -/
def sourceP {w : Nat} (s : State w) (i : RegIdx) : Alg (PointReg w) := do
  checkTag (s.readP i).tag
  pure (s.readP i)

/-- Phase 7 on one X result (60_exceptions R186). -/
def checkRange (w : Nat) (v : Int) : Alg Unit := require (decide (v.natAbs < 2 ^ w)) .resultRange

/-- Phases 7 and 8 of a command with one X destination. -/
def commitX {w : Nat} (s : State w) (a : RegIdx) (v : Int) : Alg (State w) := do
  checkRange w v
  pure (s.writeX a v)

/-- Phases 7 and 8 of a command with two X destinations. -/
def commitX2 {w : Nat} (s : State w) (a b : RegIdx) (v u : Int) : Alg (State w) := do
  checkRange w v
  checkRange w u
  pure ((s.writeX a v).writeX b u)

/-- Phases 7 and 8 of a command with three X destinations. -/
def commitX3 {w : Nat} (s : State w) (a b c : RegIdx) (v u z : Int) : Alg (State w) := do
  checkRange w v
  checkRange w u
  checkRange w z
  pure (((s.writeX a v).writeX b u).writeX c z)

end Sys2Proof.Machine
end

