-- ==== Sys2Proof/Machine/Gcd.lean ====
section
/-!
DEFINITION. Greatest common divisor and extended Euclid (43_gcd).
-/
namespace Sys2Proof.Machine

/-- The recursion of `egcd` (43_gcd R105), with fuel. -/
def egcdLoop : Nat → Nat → Nat → Nat × Int × Int
  | 0, _, b => (b, 0, 1)
  | fuel + 1, a, b =>
      if a = 0 then (b, 0, 1)
      else
        let sub := egcdLoop fuel (b % a) a
        (sub.1, sub.2.2 - ((b / a : Nat) : Int) * sub.2.1, sub.2.1)

/-- `egcd(a, b) = (g, x, y)` (43_gcd R105). The first argument strictly decreases, so depth `a + 1` is
enough (70_reset_and_hazards R206; DEDUCED, log entry 8). -/
def egcd (a b : Nat) : Nat × Int × Int := egcdLoop (a + 1) a b

/-- `gcd(a, b)` (43_gcd R106): the first component of `egcd(a, b)`. -/
def gcdOf (a b : Nat) : Nat := (egcd a b).1

/-- `GCD` (43_gcd R107). -/
def execGcd {w : Nat} (a b c : RegIdx) (s : State w) : Result (State w) :=
  s.command do
    requireNonneg (s.readX b)
    requireNonneg (s.readX c)
    commitX s a (gcdOf (s.readX b).toNat (s.readX c).toNat)

/-- `XGCD` (43_gcd R108). -/
def execXgcd {w : Nat} (a b c d e : RegIdx) (s : State w) : Result (State w) :=
  s.command do
    requireDistinct a b
    requireDistinct a c
    requireDistinct b c
    requireNonneg (s.readX d)
    requireNonneg (s.readX e)
    let r := egcd (s.readX d).toNat (s.readX e).toNat
    commitX3 s a b c r.1 r.2.1 r.2.2

end Sys2Proof.Machine
end

