-- ==== Sys2Proof/Machine/Modexp.lean ====
section
/-!
DEFINITION. Modular exponentiation (41_modexp).
-/
namespace Sys2Proof.Machine

/-- The bit loop of `pow_mod` (41_modexp R95): `k` bits of `e` are left, the next one being `e[k-1]`. -/
def powModLoop (b e m : Nat) : Nat → Nat → Nat
  | 0, res => res
  | k + 1, res =>
      powModLoop b e m k (if e.testBit k then res * res * b % m else res * res % m)

/-- `pow_mod(b, e, m)` (41_modexp R95): exponent 0 gives 1; the accumulator starts at `b mod m`, which
consumes the top bit of `e` (90_conflicts C2). -/
def powMod (b e m : Nat) : Nat :=
  if e = 0 then 1 else powModLoop b e m (bitlen e - 1) (b % m)

/-- `POWMOD` (41_modexp R96). -/
def execPowmod {w : Nat} (a b c d : RegIdx) (s : State w) : Result (State w) :=
  s.command do
    requireNonneg (s.readX b)
    requireNonneg (s.readX c)
    requirePositive (s.readX d)
    commitX s a (powMod (s.readX b).toNat (s.readX c).toNat (s.readX d).toNat)

end Sys2Proof.Machine
end

