-- ==== Sys2Proof/Machine/Modred.lean ====
section
/-!
DEFINITION. Binary-polynomial reduction (42_modred).
-/
namespace Sys2Proof.Machine

/-- The XOR-shift loop of `reduce_poly` (42_modred R100, 90_conflicts C1), with fuel. -/
def reducePolyLoop (rel : Nat) : Nat → Nat → Nat
  | 0, poly => poly
  | fuel + 1, poly =>
      if bitlen rel ≤ bitlen poly then
        reducePolyLoop rel fuel (poly ^^^ (rel <<< (bitlen poly - bitlen rel)))
      else poly

/-- `reduce_poly(poly, rel)` (42_modred R100). For `rel >= 1` each iteration shortens `poly`, so
`bitlen(poly)` iterations are enough (70_reset_and_hazards R206; DEDUCED, log entry 8). -/
def reducePoly (poly rel : Nat) : Nat := reducePolyLoop rel (bitlen poly) poly

/-- `REDPOLY` (42_modred R101). -/
def execRedpoly {w : Nat} (a b c : RegIdx) (s : State w) : Result (State w) :=
  s.command do
    requireNonneg (s.readX b)
    requirePositive (s.readX c)
    commitX s a (reducePoly (s.readX b).toNat (s.readX c).toNat)

end Sys2Proof.Machine
end

