-- ==== Sys2Proof/Machine/Field.lean ====
section
/-!
DEFINITION. The Galois field datapath (44_field).
-/
namespace Sys2Proof.Machine

/-! ### Field construction -/

/-- Whether one of the `fuel` numbers from `d` on, up to the square root of `n`, divides `n`. -/
def hasDivisorFrom (n : Nat) : Nat → Nat → Bool
  | 0, _ => false
  | fuel + 1, d =>
      if n < d * d then false
      else if n % d = 0 then true
      else hasDivisorFrom n fuel (d + 1)

/-- `is_prime(n)` (44_field R114): the exact answer, by trial division (log entry 9). -/
def isPrime (n : Nat) : Bool := decide (2 ≤ n) && !hasDivisorFrom n n 2

/-- `field_commit(base, fp, relv, rel)` (44_field R117). -/
def fieldCommit {w : Nat} (s : State w) (base : Nat) (fp relv : Bool) (rel : Nat) : State w :=
  { s.retag Tag.afterField with
    fv := true, fbase := BitVec.ofNat w base, fp := fp, relv := relv,
    frel := BitVec.ofNat w rel, chv := false, fchr := 0, cv := false, ca := 0, cb := 0 }

/-- `FLDNEW` (44_field R115). -/
def execFldnew {w : Nat} (b : RegIdx) (s : State w) : Result (State w) :=
  s.command do
    require (decide (2 ≤ s.readX b)) .invalidField
    let base := (s.readX b).toNat
    if isPrime base then pure (fieldCommit s base true false 0)
    else
      match Config.defRel base w with
      | some rel => pure (fieldCommit s base false true rel)
      | none => raise .invalidField

/-- `FLDNEWR` (44_field R116). -/
def execFldnewr {w : Nat} (b c : RegIdx) (s : State w) : Result (State w) :=
  s.command do
    requireNonneg (s.readX c)
    require (decide (2 ≤ s.readX b)) .invalidField
    let base := (s.readX b).toNat
    let rel := (s.readX c).toNat
    let fp := isPrime base
    require (fp || decide (rel ≠ 0)) .invalidField
    pure (fieldCommit s base fp true rel)

/-! ### The pure functions -/

/-- `reduce(n)` (44_field R118). -/
def reduce (f : FieldCfg) (n : Int) : Alg Nat :=
  if f.prime then .ok (n % (f.base : Int)).toNat
  else if n < 0 then fatal .negativeNonPrimeReduce
  else .ok (reducePoly n.toNat f.rel)

/-- `f_add(x, y)` (44_field R120). -/
def fAdd (f : FieldCfg) (x y : Int) : Alg Nat :=
  if f.prime then reduce f (x + y)
  else if x < 0 ∨ y < 0 then fatal .negativeNonPrimeReduce
  else reduce f ((x.toNat ^^^ y.toNat : Nat) : Int)

/-- `f_neg(x)` (44_field R124, 90_conflicts C3). In non-prime mode the subtraction is the integer one,
and the result is negative when the residue exceeds `FBASE`. -/
def fNeg (f : FieldCfg) (x : Int) : Alg Int := do
  let r ← reduce f x
  pure (if r = 0 then 0 else (f.base : Int) - r)

/-- `f_inv(x)` (44_field R126): the Bézout coefficient of `egcd(reduce(x), FBASE)`, reduced. -/
def fInv (f : FieldCfg) (x : Int) : Alg Nat := do
  let xr ← reduce f x
  require (decide (xr ≠ 0)) .noInverse
  reduce f (egcd xr f.base).2.1

/-- A `NoInverse` reported as `DivisionByZero`; every other ending as it is (44_field R128). -/
def asDivision (r : Alg Nat) : Alg Nat :=
  match r with
  | .error (.raised .noInverse) => raise .divisionByZero
  | .error e => .error e
  | .ok v => .ok v

/-- `f_div(x, y)` (44_field R128). -/
def fDiv (f : FieldCfg) (x y : Int) : Alg Nat := do
  let inv ← asDivision (fInv f y)
  reduce f (x * (inv : Int))

/-- The self-addition loop of `f_char` (44_field R130), with fuel: `count` additions are done. -/
def charLoop (f : FieldCfg) : Nat → Nat → Nat → Alg Nat
  | 0, _, count => .ok count
  | fuel + 1, acc, count => do
      let acc' ← fAdd f acc 1
      if acc' = 0 then .ok (count + 1) else charLoop f fuel acc' (count + 1)

/-- `f_char()` (44_field R130) without the cache's write; `cached` is `FCHR` when `CHV = 1`. The loop
takes at most two iterations (R130, 70_reset_and_hazards R206; DEDUCED, log entry 8). -/
def fChar (f : FieldCfg) (cached : Option Nat) : Alg Nat :=
  if f.prime then .ok f.base
  else
    match cached with
    | some v => .ok v
    | none => charLoop f 2 0 0

/-! ### The commands -/

/-- `FRED` (44_field R119). -/
def execFred {w : Nat} (a b : RegIdx) (s : State w) : Result (State w) :=
  s.command do
    requireField s
    let v ← reduce s.field (s.readX b)
    commitX s a v

/-- `FADD` (44_field R121). -/
def execFadd {w : Nat} (a b c : RegIdx) (s : State w) : Result (State w) :=
  s.command do
    requireField s
    let v ← fAdd s.field (s.readX b) (s.readX c)
    commitX s a v

/-- `FMUL` (44_field R122): the exact integer product, then `reduce`, in both modes. -/
def execFmul {w : Nat} (a b c : RegIdx) (s : State w) : Result (State w) :=
  s.command do
    requireField s
    let v ← reduce s.field (s.readX b * s.readX c)
    commitX s a v

/-- `FPOW` (44_field R123): integer `pow_mod` with modulus `FBASE`, in both modes. -/
def execFpow {w : Nat} (a b c : RegIdx) (s : State w) : Result (State w) :=
  s.command do
    requireField s
    requireNonneg (s.readX b)
    requireNonneg (s.readX c)
    commitX s a (powMod (s.readX b).toNat (s.readX c).toNat s.field.base)

/-- `FNEG` (44_field R125). -/
def execFneg {w : Nat} (a b : RegIdx) (s : State w) : Result (State w) :=
  s.command do
    requireField s
    let v ← fNeg s.field (s.readX b)
    commitX s a v

/-- `FINV` (44_field R127). -/
def execFinv {w : Nat} (a b : RegIdx) (s : State w) : Result (State w) :=
  s.command do
    requireField s
    let v ← fInv s.field (s.readX b)
    commitX s a v

/-- `FDIV` (44_field R129). -/
def execFdiv {w : Nat} (a b c : RegIdx) (s : State w) : Result (State w) :=
  s.command do
    requireField s
    let v ← fDiv s.field (s.readX b) (s.readX c)
    commitX s a v

/-- The cache's write at the commit of `FCHAR` (44_field R131): `if FP = 0 and CHV = 0`. -/
def fillCharCache {w : Nat} (s : State w) (v : Nat) : State w :=
  if !s.fp && !s.chv then { s with fchr := BitVec.ofNat w v, chv := true } else s

/-- `FCHAR` (44_field R131). -/
def execFchar {w : Nat} (a : RegIdx) (s : State w) : Result (State w) :=
  s.command do
    requireField s
    let v ← fChar s.field (if s.chv then some s.fchr.toNat else none)
    commitX (fillCharCache s v) a v

end Sys2Proof.Machine
end

