-- ==== Sys2Proof/Machine/Flags.lean ====
section
/-!
DEFINITION. `FLAG` and the values it can take, the words of `STATUS` and `CTRL`, and the CSRs as the
host reads them (10_state R26, R28, R29, R32, R33).
-/
namespace Sys2Proof.Machine

/-- `FLAG <- f` (10_state R28). -/
def State.setFlag {w : Nat} (s : State w) (f : Bool) : State w := { s with flag := f }

/-- Point equality `p_eq` (10_state R26); the tag takes no part. -/
def pEq {w : Nat} (p q : PointReg w) : Bool :=
  (p.inf && q.inf) || (!p.inf && !q.inf && p.r == q.r && p.s == q.s)

/-- The 2-bit code of STATUS.STATE (10_state R32). -/
def Phase.code : Phase → BitVec 2
  | .idle => 0
  | .busy => 1
  | .fatal => 2

/-- The 2-bit code of a tag (10_state R23). -/
def Tag.code : Tag → BitVec 2
  | .empty => 0
  | .valid => 1
  | .staleCurve => 2
  | .staleField => 3

/-- `STATUS = {0[7:0], FCAUSE[7:0], ERR[7:0], FLAG, CV, CHV, RELV, FP, FV, STATE[1:0]}` (10_state R32). -/
def State.statusWord {w : Nat} (s : State w) : BitVec 32 :=
  0#8 ++ s.fcause ++ s.err ++ BitVec.ofBool s.flag ++ BitVec.ofBool s.cv ++ BitVec.ofBool s.chv ++
    BitVec.ofBool s.relv ++ BitVec.ofBool s.fp ++ BitVec.ofBool s.fv ++ s.phase.code

/-- `CTRL`: bit 0 is `VERBOSE`, bits 31:1 read as 0 (10_state R33). -/
def State.ctrlWord {w : Nat} (s : State w) : BitVec 32 := 0#31 ++ BitVec.ofBool s.verbose

/-- The value of CSR `n` (10_state R29); 0 for the reserved numbers 7 to 15. -/
def State.readCSR {w : Nat} (s : State w) (n : Fin 16) : Nat :=
  match n.val with
  | 0 => s.statusWord.toNat
  | 1 => s.ctrlWord.toNat
  | 2 => s.fbase.toNat
  | 3 => s.frel.toNat
  | 4 => s.fchr.toNat
  | 5 => s.ca.toNat
  | 6 => s.cb.toNat
  | _ => 0

end Sys2Proof.Machine
end

