-- ==== Sys2Proof/Machine/Curve.lean ====
section
/-!
DEFINITION. The elliptic-curve unit (46_curve).
-/
namespace Sys2Proof.Machine

/-! ### The pure functions -/

/-- `reduce(4*a^3 + 27*b^2)` (46_curve R151). -/
def discriminant (f : FieldCfg) (a b : Nat) : Alg Nat :=
  reduce f (4 * (a * a * a) + 27 * (b * b) : Int)

/-- `on_curve(r, s)` (46_curve R152). -/
def onCurve (c : CurveCfg) (r s : Nat) : Alg Bool := do
  let lhs ← reduce c.field (s * s : Int)
  let rhs ← reduce c.field (r * r * r + c.a * r + c.b : Int)
  pure (lhs == rhs)

/-- `INF` (46_curve R155, R156). -/
def pointInf {w : Nat} : PointReg w := ⟨.valid, true, 0, 0⟩

/-- A `VALID` affine point (46_curve R153, R156). -/
def pointAffine {w : Nat} (r s : Word w) : PointReg w := ⟨.valid, false, r, s⟩

/-- The `finish` of `p_add` (46_curve R156) for slope `m`. -/
def addFinish {w : Nat} (c : CurveCfg) (r1 s1 r2 m : Int) : Alg (PointReg w) := do
  let r3 ← reduce c.field (m * m - r1 - r2)
  let s3 ← reduce c.field (m * m * m - 2 * m * r1 - m * r2 + s1)
  let ns3 ← fNeg c.field s3
  pure (pointAffine (wordOfInt r3) (wordOfInt ns3))

/-- Cases 3 to 6 of `p_add` (46_curve R156), for two points that are not infinity. -/
def addAffine {w : Nat} (c : CurveCfg) (p1 p2 : PointReg w) : Alg (PointReg w) := do
  let r1 : Int := p1.r.toNat
  let s1 : Int := p1.s.toNat
  let r2 : Int := p2.r.toNat
  let s2 : Int := p2.s.toNat
  if r1 ≠ r2 then
    let m ← fDiv c.field (s2 - s1) (r2 - r1)
    addFinish c r1 s1 r2 m
  else
    let ns2 ← fNeg c.field s2
    if s1 = ns2 then pure pointInf
    else if s1 = s2 ∧ s1 = 0 then pure pointInf
    else if s1 = s2 then
      let m ← fDiv c.field (3 * (r1 * r1) + c.a) (2 * s1)
      addFinish c r1 s1 r2 m
    else fatal .addCaseFallThrough

/-- `p_add(p1, p2)` (46_curve R156): the six cases in the source's priority order. -/
def pAdd {w : Nat} (c : CurveCfg) (p1 p2 : PointReg w) : Alg (PointReg w) :=
  if p1.inf && p2.inf then .ok pointInf
  else if p1.inf then .ok (pointAffine p2.r p2.s)
  else if p2.inf then .ok (pointAffine p1.r p1.s)
  else addAffine c p1 p2

/-- `p_neg(p)` (46_curve R158). -/
def pNeg {w : Nat} (c : CurveCfg) (p : PointReg w) : Alg (PointReg w) :=
  if p.inf then .ok pointInf
  else do
    let ns ← fNeg c.field p.s.toNat
    pure (pointAffine p.r (wordOfInt ns))

/-- The bit loop of `p_mul` (46_curve R160): `k` bits of `n` are left, the next one being `n[k-1]`. -/
def pMulLoop {w : Nat} (c : CurveCfg) (p : PointReg w) (n : Nat) :
    Nat → PointReg w → Alg (PointReg w)
  | 0, acc => .ok acc
  | k + 1, acc => do
      let dbl ← pAdd c acc acc
      let next ← if n.testBit k then pAdd c dbl p else .ok dbl
      pMulLoop c p n k next

/-- `p_mul(p, n)` for `n >= 1` (46_curve R160). -/
def pMul {w : Nat} (c : CurveCfg) (p : PointReg w) (n : Nat) : Alg (PointReg w) :=
  pMulLoop c p n (bitlen n - 1) p

/-! ### The commands -/

/-- The state change of a successful `ECNEW` (46_curve R151). -/
def curveCommit {w : Nat} (s : State w) (a b : Nat) : State w :=
  { s.retag Tag.afterCurve with
    ca := BitVec.ofNat w a, cb := BitVec.ofNat w b, cv := true }

/-- `ECNEW` (46_curve R150, R151). -/
def execEcnew {w : Nat} (b c : RegIdx) (s : State w) : Result (State w) :=
  s.command do
    requireField s
    require s.fp .unsupportedField
    let ar ← reduce s.field (s.readX b)
    let br ← reduce s.field (s.readX c)
    let d ← discriminant s.field ar br
    require (decide (d ≠ 0)) .singularCurve
    pure (curveCommit s ar br)

/-- `ECPOINT` (46_curve R153). -/
def execEcpoint {w : Nat} (a b c : RegIdx) (s : State w) : Result (State w) :=
  s.command do
    requireCurve s
    requireNonneg (s.readX b)
    requireNonneg (s.readX c)
    let rr ← reduce s.field (s.readX b)
    let sr ← reduce s.field (s.readX c)
    let f ← onCurve s.curve rr sr
    require f .pointNotOnCurve
    pure (s.writeP a (pointAffine (BitVec.ofNat w rr) (BitVec.ofNat w sr)))

/-- `ECCHK` (46_curve R154). -/
def execEcchk {w : Nat} (b c : RegIdx) (s : State w) : Result (State w) :=
  s.command do
    requireCurve s
    requireNonneg (s.readX b)
    requireNonneg (s.readX c)
    let rr ← reduce s.field (s.readX b)
    let sr ← reduce s.field (s.readX c)
    let f ← onCurve s.curve rr sr
    pure (s.setFlag f)

/-- `ECINF` (46_curve R155). -/
def execEcinf {w : Nat} (a : RegIdx) (s : State w) : Result (State w) :=
  s.command do
    requireCurve s
    pure (s.writeP a pointInf)

/-- `ECADD` (46_curve R157). -/
def execEcadd {w : Nat} (a b c : RegIdx) (s : State w) : Result (State w) :=
  s.command do
    requireCurve s
    let p1 ← sourceP s b
    let p2 ← sourceP s c
    let q ← pAdd s.curve p1 p2
    pure (s.writeP a q)

/-- `ECNEG` (46_curve R159). -/
def execEcneg {w : Nat} (a b : RegIdx) (s : State w) : Result (State w) :=
  s.command do
    requireCurve s
    let p ← sourceP s b
    let q ← pNeg s.curve p
    pure (s.writeP a q)

/-- The point-validity check of `ECMUL` (46_curve R161): infinity counts as valid. -/
def checkOnCurve {w : Nat} (c : CurveCfg) (p : PointReg w) : Alg Unit :=
  if p.inf then .ok ()
  else do
    let f ← onCurve c p.r.toNat p.s.toNat
    require f .pointNotOnCurve

/-- `ECMUL` (46_curve R161): the point's validity before the scalar. -/
def execEcmul {w : Nat} (a b c : RegIdx) (s : State w) : Result (State w) :=
  s.command do
    requireCurve s
    let p ← sourceP s b
    checkOnCurve s.curve p
    require (decide (1 ≤ s.readX c)) .invalidScalar
    let q ← pMul s.curve p (s.readX c).toNat
    pure (s.writeP a q)

/-- `ECGET` (46_curve R162). -/
def execEcget {w : Nat} (a b c : RegIdx) (s : State w) : Result (State w) :=
  s.command do
    requireDistinct a b
    requireCurve s
    let p ← sourceP s c
    commitX2 (s.setFlag p.inf) a b p.r.toNat p.s.toNat

/-- `ECEQ` (46_curve R163). -/
def execEceq {w : Nat} (b c : RegIdx) (s : State w) : Result (State w) :=
  s.command do
    requireCurve s
    let p1 ← sourceP s b
    let p2 ← sourceP s c
    pure (s.setFlag (pEq p1 p2))

end Sys2Proof.Machine
end

