-- ==== Sys2Proof/Machine/Sqrt.lean ====
section
/-!
DEFINITION. The square root in a prime field (45_sqrt).
-/
namespace Sys2Proof.Machine

/-- The halving loop of `f_sqrt` (45_sqrt R141), with fuel: `h = 2^l * t`, `l` halvings done. -/
def halveLoop : Nat → Nat → Nat → Nat × Nat
  | 0, h, l => (l, h)
  | fuel + 1, h, l => if h % 2 = 0 then halveLoop fuel (h / 2) (l + 1) else (l, h)

/-- The scan of `f_sqrt` for the least non-residue (45_sqrt R141): the first `c` of the `fuel` numbers
from `c` on with `c^((p-1)/2) = p - 1`. -/
def scanNonResidue (p : Nat) : Nat → Nat → Option Nat
  | 0, _ => none
  | fuel + 1, c =>
      if powMod c ((p - 1) / 2) p = p - 1 then some c else scanNonResidue p fuel (c + 1)

/-- The `c_i` loop of `f_sqrt` (45_sqrt R141): `k` iterations are left, so `l - i - 1 = k - 1`. -/
def sqrtLoop (a b t p : Nat) : Nat → Nat → Nat
  | 0, n => n
  | k + 1, n =>
      if powMod a (2 ^ k * t) p * powMod b n p % p = 1 then sqrtLoop a b t p k (n / 2)
      else sqrtLoop a b t p k (n / 2 + (p - 1) / 4)

/-- `f_sqrt(a)` (45_sqrt R141), with the branch test `4 mod (p + 1) = 0` exactly as R143 asks
(90_conflicts C5) and the exponent `(p + 1) div 4` of 90_conflicts C9. The halving loop takes at most
`bitlen(p)` iterations (70_reset_and_hazards R206; DEDUCED, log entry 8). -/
def fSqrt (f : FieldCfg) (a : Nat) : Alg (Nat × Int) := do
  let p := f.base
  require (powMod a ((p - 1) / 2) p == 1) .noRoot
  if 4 % (p + 1) = 0 then
    let w1 := powMod a ((p + 1) / 4) p
    let w2 ← fNeg f w1
    pure (w1, w2)
  else
    let lt := halveLoop (bitlen p) ((p - 1) / 2) 0
    match scanNonResidue p p 0 with
    | none => raise .noRoot
    | some b =>
        let n := sqrtLoop a b lt.2 p lt.1 0
        let w1 := powMod a ((lt.2 + 1) / 2) p * powMod b n p % p
        let w2 ← fNeg f w1
        pure (w1, w2)

/-- `FSQRT` (45_sqrt R140, R142). -/
def execFsqrt {w : Nat} (a b c : RegIdx) (s : State w) : Result (State w) :=
  s.command do
    requireDistinct a b
    requireField s
    require (s.fp && s.fbase != 2) .unsupportedField
    requireNonneg (s.readX c)
    let roots ← fSqrt s.field (s.readX c).toNat
    commitX2 s a b roots.1 roots.2

end Sys2Proof.Machine
end

