-- ==== Sys2Proof/Machine/System.lean ====
section
/-!
DEFINITION. The system command (40_system).
-/
namespace Sys2Proof.Machine

/-- `NOP` (40_system R90): `ERR <- 0` and nothing else. -/
def execNop {w : Nat} (s : State w) : Result (State w) := s.command (.ok s)

end Sys2Proof.Machine
end

