-- ==== Sys2Proof/Machine/Dispatch.lean ====
section
/-!
DEFINITION. One arm per command: the meaning of each constructor of `Instr`.
-/
namespace Sys2Proof.Machine

def exec (i : Instr) (s : State) : Host.Outcome State Fault Refusal :=
  match i with
  | .nop => Sys2Proof.Machine.execNop s
  | .powmod a b c d => Sys2Proof.Machine.execPowmod a b c d s
  | .redpoly a b c => Sys2Proof.Machine.execRedpoly a b c s
  | .gcd a b c => Sys2Proof.Machine.execGcd a b c s
  | .xgcd a b c d e => Sys2Proof.Machine.execXgcd a b c d e s
  | .fldnew b => Sys2Proof.Machine.execFldnew b s
  | .fldnewr b c => Sys2Proof.Machine.execFldnewr b c s
  | .fred a b => Sys2Proof.Machine.execFred a b s
  | .fadd a b c => Sys2Proof.Machine.execFadd a b c s
  | .fmul a b c => Sys2Proof.Machine.execFmul a b c s
  | .fpow a b c => Sys2Proof.Machine.execFpow a b c s
  | .fneg a b => Sys2Proof.Machine.execFneg a b s
  | .finv a b => Sys2Proof.Machine.execFinv a b s
  | .fdiv a b c => Sys2Proof.Machine.execFdiv a b c s
  | .fsqrt a b c => Sys2Proof.Machine.execFsqrt a b c s
  | .fchar a => Sys2Proof.Machine.execFchar a s
  | .ecnew b c => Sys2Proof.Machine.execEcnew b c s
  | .ecpoint a b c => Sys2Proof.Machine.execEcpoint a b c s
  | .ecchk b c => Sys2Proof.Machine.execEcchk b c s
  | .ecinf a => Sys2Proof.Machine.execEcinf a s
  | .ecadd a b c => Sys2Proof.Machine.execEcadd a b c s
  | .ecneg a b => Sys2Proof.Machine.execEcneg a b s
  | .ecmul a b c => Sys2Proof.Machine.execEcmul a b c s
  | .ecget a b c => Sys2Proof.Machine.execEcget a b c s
  | .eceq b c => Sys2Proof.Machine.execEceq b c s

end Sys2Proof.Machine
end

