-- ==== Sys2Proof/Machine/HostPort.lean ====
section
/-!
DEFINITION. The host port (20_memory R51 to R58): which operation each `STATE` accepts, what each does,
and whose turn it is, the host's or the sequencer's.
-/
namespace Sys2Proof.Machine

/-- The column "accepted in" of 20_memory R51. -/
def HostOp.acceptedIn {w : Nat} (op : HostOp w) (ph : Phase) : Bool :=
  match op with
  | .writeX _ _ _ | .writeCTRL _ | .issue _ => ph == .idle
  | .readX _ | .readP _ => ph != .busy
  | .readCSR n => ph != .busy || n == 0
  | .reset => true

/-- The effect of an accepted host operation (20_memory R52 to R58). `HIssue` latches the word and makes
the block `BUSY`; the command's own changes come when the sequencer completes it (R57). -/
def hostEffect {w : Nat} (op : HostOp w) (s : State w) : State w :=
  match op with
  | .writeX i neg mag => { s with x := s.x.set i (SignMag.ofParts neg mag), reply := .done }
  | .readX i =>
      { s with reply := .dataReg (decide (s.readX i < 0)) (BitVec.ofNat w (s.readX i).natAbs) }
  | .readP i => { s with reply := .pointReg (s.readP i) }
  | .readCSR n => { s with reply := .csr (s.readCSR n) }
  | .writeCTRL v => { s with verbose := v.getLsbD 0, reply := .done }
  | .issue word => { s with cmd := word, phase := .busy, reply := .done }
  | .reset => { State.resetAt w with port := s.port, reply := .done }

/-- One host operation: its effect where it is accepted; otherwise it does not happen and is not queued
(20_memory R51, 70_reset_and_hazards R204). -/
def hostStep {w : Nat} (op : HostOp w) (s : State w) : State w :=
  if op.acceptedIn s.phase then hostEffect op s else { s with reply := .notAccepted }

/-- Whose turn it is (log entry 5): the next host request, taken off the port, or none when it is the
sequencer's turn. While the block is `BUSY` only a request marked `early` comes before the command's
completion. -/
def takeRequest {w : Nat} (s : State w) : Option (HostOp w × State w) :=
  match s.port with
  | [] => none
  | q :: rest =>
      if s.phase = .busy ∧ q.early = false then none else some (q.op, { s with port := rest })

/-- The host requests with the first one not marked `early` (for `State.withFetchWord`). -/
def portOnTime {w : Nat} : List (Request w) → List (Request w)
  | [] => []
  | q :: rest => { q with early := false } :: rest

end Sys2Proof.Machine
end

