-- ==== Sys2Proof/Machine/Sequencer.lean ====
section
/-!
DEFINITION. The sequencer: it decodes the latched command word and runs the command to its end
(10_state R20, 20_memory R57, 30_encoding R80).
-/
namespace Sys2Proof.Machine

/-- The command in the latch: phase 1 of 30_encoding R80 (an illegal word ends with `IllegalCommand`,
R74), then the command's own phases. -/
def runCommand (s : State) : Result State :=
  match decode s.cmd with
  | .ok i => exec i s
  | .error _ => .next (s.endTyped .illegalCommand)

/-- The sequencer's turn: it completes the command in flight; with none in flight nothing happens
(60_exceptions R197). -/
def sequencerStep (s : State) : Result State :=
  if s.phase = .busy then runCommand s else .next s

end Sys2Proof.Machine
end

