-- ==== Sys2Proof/Machine/Step.lean ====
section
/-!
DEFINITION. One step of the machine: one host operation, or the completion of the command in flight
(20_memory R63: the total order of both).
-/
namespace Sys2Proof.Machine

/-- One step. While the block is `BUSY` and no `early` host request stands first, the step is the whole
execution of the command in the latch; otherwise it is the next host operation. -/
def step (s : State) : Host.Outcome State Fault Refusal :=
  match takeRequest s with
  | some (op, t) => .next (hostStep op t)
  | none => sequencerStep s

/-- `s` with the command word `w` accepted (20_memory R57: latched, `BUSY`), so that the next step runs
it; a request standing first in the port is kept, and comes after the command (log entry 4). -/
def State.withFetchWord (s : State) (nbits w : Nat) : State :=
  { s with cmd := BitVec.ofNat 32 (w % 2 ^ nbits), phase := .busy, port := portOnTime s.port }

end Sys2Proof.Machine
end

