-- ==== Sys2Proof/Safety.lean ====
section
/-!
DEFINITION. The terms claims about PCT-CORE use: the invariant of 10_state R34, what a command may
write, when an X operand is refused, and the mathematics that results are compared with.
-/
namespace Sys2Proof.Machine

/-! ### The invariant -/

/-- 46_curve R152 as a congruence: `s^2 ≡ r^3 + a*r + b` modulo `p`. -/
def OnCurveMod (p a b r s : Nat) : Prop := (s * s) % p = (r ^ 3 + a * r + b) % p

/-- What every reachable state satisfies: 10_state R34 (a) to (g), with the legal values of R21, R25,
R30 and R31, the codes that occur (60_exceptions R182, R187), and that cause 2 does not occur. -/
structure Inv {w : Nat} (s : State w) : Prop where
  /-- R21: no negative zero. -/
  noNegativeZero : ∀ i : RegIdx, s.x[i].neg = true → s.x[i].mag ≠ 0
  /-- R34 (a). -/
  curveNeedsPrimeField : s.cv = true → s.fv = true ∧ s.fp = true
  /-- R34 (b). -/
  noFieldIsCleared : s.fv = false →
    s.fp = false ∧ s.relv = false ∧ s.chv = false ∧ s.cv = false ∧
    s.fbase = 0 ∧ s.frel = 0 ∧ s.fchr = 0 ∧ s.ca = 0 ∧ s.cb = 0
  /-- R30: `2 <= FBASE`. -/
  baseAtLeastTwo : s.fv = true → 2 ≤ s.fbase.toNat
  /-- R30: `FP` is exact. -/
  primeFlagExact : s.fv = true → (s.fp = true ↔ s.fbase.toNat.Prime)
  /-- R34 (c). -/
  nonPrimeHasRelation : s.fv = true → s.fp = false → s.relv = true ∧ s.frel ≠ 0
  /-- R34 (d). -/
  cacheIsOneOrTwo : s.chv = true → s.fv = true ∧ s.fp = false ∧ (s.fchr = 1 ∨ s.fchr = 2)
  /-- R34 (e). -/
  noCurveIsCleared : s.cv = false → s.ca = 0 ∧ s.cb = 0 ∧ ∀ i : RegIdx, s.p[i].tag ≠ .valid
  /-- R31: reduced coefficients and a discriminant that is not zero. -/
  curveIsRegular : s.cv = true →
    s.ca.toNat < s.fbase.toNat ∧ s.cb.toNat < s.fbase.toNat ∧
    (4 * s.ca.toNat ^ 3 + 27 * s.cb.toNat ^ 2) % s.fbase.toNat ≠ 0
  /-- R34 (f). -/
  causeExactlyInFatal : s.fcause ≠ 0 ↔ s.phase = .fatal
  /-- R25: the stored coordinates of infinity. -/
  infinityIsZero : ∀ i : RegIdx, s.p[i].inf = true → s.p[i].r = 0 ∧ s.p[i].s = 0
  /-- R24, R36: a register never written since reset. -/
  emptyIsZero : ∀ i : RegIdx, s.p[i].tag = .empty →
    s.p[i].inf = false ∧ s.p[i].r = 0 ∧ s.p[i].s = 0
  /-- R25: a valid affine point is reduced and on the curve. -/
  validIsOnCurve : ∀ i : RegIdx, s.p[i].tag = .valid → s.p[i].inf = false →
    s.p[i].r.toNat < s.fbase.toNat ∧ s.p[i].s.toNat < s.fbase.toNat ∧
    OnCurveMod s.fbase.toNat s.ca.toNat s.cb.toNat s.p[i].r.toNat s.p[i].s.toNat
  /-- R182: codes 15 to 255 never occur. -/
  errorCodeKnown : s.err.toNat ≤ 14
  /-- R187: causes 3 to 255 never occur, and cause 2 is not reachable. -/
  causeIsAtMostOne : s.fcause.toNat ≤ 1

/-! ### What a command may write -/

/-- The X destinations of a command (30_encoding R73). -/
def xDests : Instr → List RegIdx
  | .powmod a _ _ _ | .redpoly a _ _ | .gcd a _ _ => [a]
  | .xgcd a b c _ _ => [a, b, c]
  | .fred a _ | .fadd a _ _ | .fmul a _ _ | .fpow a _ _ | .fneg a _ | .finv a _ => [a]
  | .fdiv a _ _ | .fchar a => [a]
  | .fsqrt a b _ | .ecget a b _ => [a, b]
  | .nop | .fldnew _ | .fldnewr _ _ | .ecnew _ _ | .ecpoint _ _ _ | .ecchk _ _ => []
  | .ecinf _ | .ecadd _ _ _ | .ecneg _ _ | .ecmul _ _ _ | .eceq _ _ => []

/-- The P destinations of a command (30_encoding R73). -/
def pDests : Instr → List RegIdx
  | .ecpoint a _ _ | .ecinf a | .ecadd a _ _ | .ecneg a _ | .ecmul a _ _ => [a]
  | .nop | .powmod _ _ _ _ | .redpoly _ _ _ | .gcd _ _ _ | .xgcd _ _ _ _ _ => []
  | .fldnew _ | .fldnewr _ _ | .fred _ _ | .fadd _ _ _ | .fmul _ _ _ | .fpow _ _ _ => []
  | .fneg _ _ | .finv _ _ | .fdiv _ _ _ | .fsqrt _ _ _ | .fchar _ => []
  | .ecnew _ _ | .ecchk _ _ | .ecget _ _ _ | .eceq _ _ => []

/-- The commands that construct a field (44_field R115, R116). -/
def constructsField : Instr → Bool
  | .fldnew _ | .fldnewr _ _ => true
  | .nop | .powmod _ _ _ _ | .redpoly _ _ _ | .gcd _ _ _ | .xgcd _ _ _ _ _ => false
  | .fred _ _ | .fadd _ _ _ | .fmul _ _ _ | .fpow _ _ _ | .fneg _ _ | .finv _ _ => false
  | .fdiv _ _ _ | .fsqrt _ _ _ | .fchar _ => false
  | .ecnew _ _ | .ecpoint _ _ _ | .ecchk _ _ | .ecinf _ | .ecadd _ _ _ | .ecneg _ _ => false
  | .ecmul _ _ _ | .ecget _ _ _ | .eceq _ _ => false

/-- The command that constructs a curve (46_curve R151). -/
def constructsCurve : Instr → Bool
  | .ecnew _ _ => true
  | .nop | .powmod _ _ _ _ | .redpoly _ _ _ | .gcd _ _ _ | .xgcd _ _ _ _ _ => false
  | .fldnew _ | .fldnewr _ _ | .fred _ _ | .fadd _ _ _ | .fmul _ _ _ | .fpow _ _ _ => false
  | .fneg _ _ | .finv _ _ | .fdiv _ _ _ | .fsqrt _ _ _ | .fchar _ => false
  | .ecpoint _ _ _ | .ecchk _ _ | .ecinf _ | .ecadd _ _ _ | .ecneg _ _ => false
  | .ecmul _ _ _ | .ecget _ _ _ | .eceq _ _ => false

/-- The commands that write `FLAG` (10_state R28). -/
def writesFlag : Instr → Bool
  | .ecchk _ _ | .ecget _ _ _ | .eceq _ _ => true
  | .nop | .powmod _ _ _ _ | .redpoly _ _ _ | .gcd _ _ _ | .xgcd _ _ _ _ _ => false
  | .fldnew _ | .fldnewr _ _ | .fred _ _ | .fadd _ _ _ | .fmul _ _ _ | .fpow _ _ _ => false
  | .fneg _ _ | .finv _ _ | .fdiv _ _ _ | .fsqrt _ _ _ | .fchar _ => false
  | .ecnew _ _ | .ecpoint _ _ _ | .ecinf _ | .ecadd _ _ _ | .ecneg _ _ | .ecmul _ _ _ => false

/-- The commands that need a field: every field command but the constructors, and `ECNEW` (44_field
R112, 45_sqrt R140, 46_curve R150). -/
def needsField : Instr → Bool
  | .fred _ _ | .fadd _ _ _ | .fmul _ _ _ | .fpow _ _ _ | .fneg _ _ | .finv _ _ => true
  | .fdiv _ _ _ | .fsqrt _ _ _ | .fchar _ | .ecnew _ _ => true
  | .nop | .powmod _ _ _ _ | .redpoly _ _ _ | .gcd _ _ _ | .xgcd _ _ _ _ _ => false
  | .fldnew _ | .fldnewr _ _ => false
  | .ecpoint _ _ _ | .ecchk _ _ | .ecinf _ | .ecadd _ _ _ | .ecneg _ _ => false
  | .ecmul _ _ _ | .ecget _ _ _ | .eceq _ _ => false

/-- The commands that need a curve (46_curve R150). -/
def needsCurve : Instr → Bool
  | .ecpoint _ _ _ | .ecchk _ _ | .ecinf _ | .ecadd _ _ _ | .ecneg _ _ => true
  | .ecmul _ _ _ | .ecget _ _ _ | .eceq _ _ => true
  | .nop | .powmod _ _ _ _ | .redpoly _ _ _ | .gcd _ _ _ | .xgcd _ _ _ _ _ => false
  | .fldnew _ | .fldnewr _ _ | .fred _ _ | .fadd _ _ _ | .fmul _ _ _ | .fpow _ _ _ => false
  | .fneg _ _ | .finv _ _ | .fdiv _ _ _ | .fsqrt _ _ _ | .fchar _ | .ecnew _ _ => false

/-- The P sources of a command, in the order their tags are checked (46_curve R164). -/
def pSources : Instr → List RegIdx
  | .ecadd _ b c | .eceq b c => [b, c]
  | .ecneg _ b | .ecmul _ b _ => [b]
  | .ecget _ _ c => [c]
  | .nop | .powmod _ _ _ _ | .redpoly _ _ _ | .gcd _ _ _ | .xgcd _ _ _ _ _ => []
  | .fldnew _ | .fldnewr _ _ | .fred _ _ | .fadd _ _ _ | .fmul _ _ _ | .fpow _ _ _ => []
  | .fneg _ _ | .finv _ _ | .fdiv _ _ _ | .fsqrt _ _ _ | .fchar _ => []
  | .ecnew _ _ | .ecpoint _ _ _ | .ecchk _ _ | .ecinf _ => []

/-- The table of 60_exceptions R185: the operand values that a command refuses. -/
def refusesOperands {w : Nat} (i : Instr) (s : State w) : Prop :=
  match i with
  | .powmod _ b c d => s.readX b < 0 ∨ s.readX c < 0 ∨ s.readX d ≤ 0
  | .redpoly _ b c => s.readX b < 0 ∨ s.readX c ≤ 0
  | .gcd _ b c => s.readX b < 0 ∨ s.readX c < 0
  | .xgcd _ _ _ d e => s.readX d < 0 ∨ s.readX e < 0
  | .fldnewr _ c => s.readX c < 0
  | .fpow _ b c => s.readX b < 0 ∨ s.readX c < 0
  | .fsqrt _ _ c => s.readX c < 0
  | .ecpoint _ b c => s.readX b < 0 ∨ s.readX c < 0
  | .ecchk b c => s.readX b < 0 ∨ s.readX c < 0
  | .nop | .fldnew _ | .fred _ _ | .fadd _ _ _ | .fmul _ _ _ | .fneg _ _ | .finv _ _ => False
  | .fdiv _ _ _ | .fchar _ | .ecnew _ _ | .ecinf _ | .ecadd _ _ _ | .ecneg _ _ => False
  | .ecmul _ _ _ | .ecget _ _ _ | .eceq _ _ => False

/-- What phases 2 and 3 of 30_encoding R80 ask of the commands of R185's table. -/
def reachesOperandPhase {w : Nat} (i : Instr) (s : State w) : Prop :=
  i.wellFormed = true ∧ (needsField i = true → s.fv = true) ∧ (needsCurve i = true → s.cv = true) ∧
  (∀ a b c, i = .fsqrt a b c → s.fp = true ∧ s.fbase ≠ 2)

/-- The table of 60_exceptions R183: the typed errors each command is listed for. -/
def mayRaise : Instr → List TypedError
  | .nop => []
  | .powmod _ _ _ _ | .redpoly _ _ _ | .gcd _ _ _ => [.invalidOperand]
  | .xgcd _ _ _ _ _ => [.illegalCommand, .invalidOperand, .resultRange]
  | .fldnew _ => [.invalidField]
  | .fldnewr _ _ => [.invalidField, .invalidOperand]
  | .fred _ _ | .fadd _ _ _ | .fmul _ _ _ | .fneg _ _ | .fchar _ => [.notConfigured]
  | .fpow _ _ _ => [.notConfigured, .invalidOperand]
  | .finv _ _ => [.notConfigured, .noInverse]
  | .fdiv _ _ _ => [.notConfigured, .divisionByZero]
  | .fsqrt _ _ _ =>
      [.illegalCommand, .notConfigured, .unsupportedField, .invalidOperand, .noRoot]
  | .ecnew _ _ => [.notConfigured, .unsupportedField, .singularCurve]
  | .ecpoint _ _ _ => [.notConfigured, .invalidOperand, .pointNotOnCurve]
  | .ecchk _ _ => [.notConfigured, .invalidOperand]
  | .ecinf _ => [.notConfigured]
  | .ecadd _ _ _ => [.notConfigured, .pointsNotSameField, .pointsNotSameCurve, .divisionByZero]
  | .ecneg _ _ | .eceq _ _ => [.notConfigured, .pointsNotSameField, .pointsNotSameCurve]
  | .ecmul _ _ _ => [.notConfigured, .pointsNotSameField, .pointsNotSameCurve, .pointNotOnCurve,
      .invalidScalar, .divisionByZero]
  | .ecget _ _ _ => [.illegalCommand, .notConfigured, .pointsNotSameField, .pointsNotSameCurve]

/-- The commands that can go fatal from a reachable state: those that `reduce` a value which may be
negative in non-prime mode (60_exceptions R187, cause 1). -/
def mayGoFatal : Instr → Bool
  | .fred _ _ | .fadd _ _ _ | .fmul _ _ _ | .fneg _ _ | .finv _ _ | .fdiv _ _ _ => true
  | .nop | .powmod _ _ _ _ | .redpoly _ _ _ | .gcd _ _ _ | .xgcd _ _ _ _ _ => false
  | .fldnew _ | .fldnewr _ _ | .fpow _ _ _ | .fsqrt _ _ _ | .fchar _ => false
  | .ecnew _ _ | .ecpoint _ _ _ | .ecchk _ _ | .ecinf _ | .ecadd _ _ _ | .ecneg _ _ => false
  | .ecmul _ _ _ | .ecget _ _ _ | .eceq _ _ => false

/-! ### The mathematics results are compared with -/

/-- The carry-less product: the product of two binary polynomials, bit `i` being the coefficient of
`x^i` (00_scope R11). -/
def clmul (a b : Nat) : Nat :=
  (List.range (bitlen a)).foldl (fun acc i => if a.testBit i then acc ^^^ (b <<< i) else acc) 0

/-- `r` is the remainder of `poly` divided by `rel` as polynomials over GF(2) (42_modred R100). -/
def IsPolyRemainder (poly rel r : Nat) : Prop :=
  (∃ q, poly = clmul q rel ^^^ r) ∧ bitlen r < bitlen rel

/-- The first of the two roots that 45_sqrt R141 fixes for an odd prime `p` and a square `a`: with
`(p-1)/2 = 2^l * t`, `t` odd, `b` the least non-residue and the sequence `n`, it is
`a^((t+1)/2) * b^(n l)` modulo `p`. (For `p = 3`, where `l = 0`, that is the simple branch's root, R143.) -/
def IsFirstRoot (p a root : Nat) : Prop :=
  ∃ (l t b : Nat) (n : Nat → Nat),
    (p - 1) / 2 = 2 ^ l * t ∧ t % 2 = 1 ∧
    b ^ ((p - 1) / 2) % p = p - 1 ∧ (∀ c < b, c ^ ((p - 1) / 2) % p ≠ p - 1) ∧
    n 0 = 0 ∧
    (∀ i < l, n (i + 1) =
      n i / 2 + if a ^ (2 ^ (l - i - 1) * t) * b ^ n i % p = 1 then 0 else (p - 1) / 4) ∧
    root = a ^ ((t + 1) / 2) * b ^ n l % p

/-- The curve `y^2 = x^3 + a*x + b` of the state's curve configuration over the state's prime field. -/
def curveOf {w : Nat} (s : State w) : WeierstrassCurve.Affine (ZMod s.fbase.toNat) :=
  ⟨0, 0, 0, (s.ca.toNat : ZMod s.fbase.toNat), (s.cb.toNat : ZMod s.fbase.toNat)⟩

/-- A point record stands for a point of a Weierstrass curve over `ZMod n`: both infinity, or both the
same reduced coordinates. -/
def Represents {w n : Nat} {e : WeierstrassCurve.Affine (ZMod n)} (q : PointReg w) (P : e.Point) :
    Prop :=
  match P with
  | .zero => q = ⟨.valid, true, 0, 0⟩
  | .some x y _ =>
      q.tag = .valid ∧ q.inf = false ∧ q.r.toNat < n ∧ q.s.toNat < n ∧
      (q.r.toNat : ZMod n) = x ∧ (q.s.toNat : ZMod n) = y

/-- The state after a command that ends with a typed error (60_exceptions R181). -/
abbrev afterError {w : Nat} (s : State w) (code : BitVec 8) : State w :=
  { s with err := code, phase := .idle }

/-- The state after a command that goes fatal (60_exceptions R188). -/
abbrev afterFatal {w : Nat} (s : State w) (cause : BitVec 8) : State w :=
  { s with phase := .fatal, fcause := cause }

/-- The state after a command whose one effect is `X[a] <- v`. -/
abbrev afterX {w : Nat} (s : State w) (a : RegIdx) (v : Int) : State w :=
  { s with x := s.x.set a (SignMag.ofInt v), err := 0, phase := .idle }

/-- The state after a command whose one effect is `P[a] <- q`. -/
abbrev afterP {w : Nat} (s : State w) (a : RegIdx) (q : PointReg w) : State w :=
  { s with p := s.p.set a q, err := 0, phase := .idle }

/-- The state after a successful field construction (44_field R117). -/
abbrev afterNewField {w : Nat} (s : State w) (base : Nat) (fp relv : Bool) (rel : Nat) : State w :=
  { s with
    fv := true, fbase := BitVec.ofNat w base, fp := fp, relv := relv,
    frel := BitVec.ofNat w rel, chv := false, fchr := 0, cv := false, ca := 0, cb := 0,
    p := s.p.map fun q => { q with tag := if q.tag = .empty then .empty else .staleField },
    err := 0, phase := .idle }

/-- The state after a successful curve construction (46_curve R151). -/
abbrev afterNewCurve {w : Nat} (s : State w) (a b : Nat) : State w :=
  { s with
    ca := BitVec.ofNat w a, cb := BitVec.ofNat w b, cv := true,
    p := s.p.map fun q => { q with tag := if q.tag = .valid then .staleCurve else q.tag },
    err := 0, phase := .idle }

/-- The host's operation `op` is the next event, and `rest` comes after it: it stands first in the port,
and while the block is `BUSY` it arrives before the command's completion (log entry 5). -/
def HostTurn {w : Nat} (s : State w) (op : HostOp w) (rest : List (Request w)) : Prop :=
  ∃ early, s.port = ⟨early, op⟩ :: rest ∧ (s.phase = .busy → early = true)

/-- It is the sequencer's turn with a command in flight: the block is `BUSY` and no `early` host request
stands first (log entry 5). -/
def SequencerTurn {w : Nat} (s : State w) : Prop :=
  s.phase = .busy ∧ ∀ q rest, s.port = q :: rest → q.early = false

end Sys2Proof.Machine
end

