-- ==== Sys2Proof/Certificates/Slice0/Obligations.lean ====
section
/-!
DEFINITION. The statements for the provers. Each says which rules of spec/ it formalises; where a
clause rests on a choice of the model, its docstring names the log entry. A next state written as an
update of `s` also says that the host's side `port` and `reply`, the model's own fields, are as before
(log entry 4), and that the latch keeps the word (log entry 3). `State` without a width is this
hardware's, of width `Config.W` (log entry 1).
-/

section
open Sys2Proof Sys2Proof.Machine

/-! ### The command word -/

/-- 30_encoding R71, R73, R79: the decoder reads back every command from the word the encoder writes,
whatever its register fields are. -/
def Obligations.DecodeOfEncode : Prop := ∀ i : Instr, decode (encode i) = .ok i

/-- 30_encoding R74, R79: a legal word is the word of the command it decodes to, so no bit of a legal
word is dropped and no command has two words. -/
def Obligations.EncodeOfDecode : Prop :=
  ∀ (w : CmdWord) (i : Instr), decode w = .ok i → encode i = w

/-- 30_encoding R79: the decoder is total; a word that fits a row is that row's command with the fields
at their places, a word that fits none is illegal, every mask covers the opcode, and no word fits two
rows. -/
def Obligations.DecodeFollowsTheTable : Prop :=
  (∀ (w : CmdWord), ∀ r ∈ opcodeRows, w &&& r.mask = r.pattern →
    decode w = .ok (r.build (w.extractLsb' 20 4).toFin (w.extractLsb' 16 4).toFin
      (w.extractLsb' 12 4).toFin (w.extractLsb' 8 4).toFin (w.extractLsb' 4 4).toFin)) ∧
  (∀ w : CmdWord, (∀ r ∈ opcodeRows, w &&& r.mask ≠ r.pattern) →
    ∃ e : IllegalWord, decode w = .error e) ∧
  (∀ r ∈ opcodeRows, r.mask &&& 0xFF000000#32 = 0xFF000000#32) ∧
  (∀ (w : CmdWord), ∀ r ∈ opcodeRows, ∀ q ∈ opcodeRows,
    w &&& r.mask = r.pattern → w &&& q.mask = q.pattern → r = q)

/-- 30_encoding R77 and the programs of 95_test_vectors: words the spec writes out, and what they are. -/
def Obligations.SpecWordsDecode : Prop :=
  decode 0x00000000#32 = .ok .nop ∧
  decode 0x10012300#32 = .ok (.powmod 0 1 2 3) ∧
  decode 0x13012340#32 = .ok (.xgcd 0 1 2 3 4) ∧
  decode 0x200D0000#32 = .ok (.fldnew 13) ∧
  decode 0x29785000#32 = .ok (.fsqrt 7 8 5) ∧
  decode 0x36105000#32 = .ok (.ecmul 1 0 5) ∧
  decode 0x38023000#32 = .ok (.eceq 2 3)

/-- 30_encoding R74, 60_exceptions R181: a word that matches no row ends with `IllegalCommand`
(code 10) and changes nothing else. -/
def Obligations.IllegalWordIsATypedError : Prop :=
  ∀ s : State, SequencerTurn s → (∀ r ∈ opcodeRows, s.cmd &&& r.mask ≠ r.pattern) →
    step s = .next (afterError s 10)

/-- 30_encoding R75: a command whose destinations coincide ends with `IllegalCommand`, whatever the
configuration and the operands are. -/
def Obligations.EqualDestinationsAreIllegal : Prop :=
  ∀ (i : Instr) (s : State), i.wellFormed = false → exec i s = .next (afterError s 10)

/-! ### Steps, reset and the host port -/

/-- 20_memory R57: when it is the sequencer's turn and the latched word decodes, the step is the whole
execution of that command on the state as it stands (the state already has `STATE = BUSY`). -/
def Obligations.StepRunsTheLatchedCommand : Prop :=
  ∀ (s : State) (i : Instr), SequencerTurn s → decode s.cmd = .ok i → step s = exec i s

/-- 20_memory R57, 30_encoding R74: `HIssue` in `IDLE` latches any word, legal or not, and makes the block
`BUSY`; when no host request comes in between, the next step is the command, or the typed error
`IllegalCommand` for a word that fits no row. The form of the answer is the model's (log entry 4). -/
def Obligations.IssueThenCommand : Prop :=
  ∀ (s : State) (w : CmdWord) (rest : List Request),
    s.phase = .idle → HostTurn s (.issue w) rest →
    ∃ t : State, t = { s with cmd := w, phase := .busy, port := rest, reply := .done } ∧
      step s = .next t ∧
      ((∀ q tail, rest = q :: tail → q.early = false) →
        (∀ i : Instr, decode w = .ok i → step t = exec i t) ∧
        ((∀ r ∈ opcodeRows, w &&& r.mask ≠ r.pattern) → step t = .next (afterError t 10)))

/-- 10_state R36: the reset values the spec gives (the latch `CMD` is unspecified there; the model's
value is log entry 3, and it is not claimed here). -/
def Obligations.ResetValues : Prop :=
  (∀ i : RegIdx, State.reset.x[i] = ⟨false, 0⟩) ∧
  (∀ i : RegIdx, State.reset.p[i] = ⟨.empty, false, 0, 0⟩) ∧
  State.reset.statusWord = 0 ∧ State.reset.ctrlWord = 0 ∧ State.reset.phase = .idle ∧
  State.reset.fbase = 0 ∧ State.reset.frel = 0 ∧ State.reset.fchr = 0 ∧
  State.reset.ca = 0 ∧ State.reset.cb = 0

/-- 20_memory R58, 70_reset_and_hazards R200: `HReset` is accepted in every state; it gives the reset
state, abandons a command in flight and leaves only the host's own list of requests. What the latch
`CMD` then holds is unspecified and not claimed; the form of the answer is the model's (log entry 4). -/
def Obligations.HostResetFromEveryState : Prop :=
  ∀ (s : State) (rest : List Request), HostTurn s .reset rest →
    ∃ c : CmdWord, step s = .next { State.reset with cmd := c, port := rest, reply := .done }

/-- 20_memory R52, R53, 10_state R21: `HWriteX` in `IDLE` changes one data register and nothing else, no
negative zero is stored, and `HReadX` returns the sign and magnitude of what was written. The form of
the answers is the model's (log entry 4). -/
def Obligations.HostDataRegisterAccess : Prop :=
  ∀ (s : State) (i : RegIdx) (neg : Bool) (mag : Word) (rest : List Request),
    (s.phase = .idle → HostTurn s (.writeX i neg mag) rest →
      step s = .next
        { s with x := s.x.set i ⟨neg && mag != 0, mag⟩, port := rest, reply := .done }) ∧
    (s.phase ≠ .busy → HostTurn s (.readX i) rest → s.x[i] = ⟨neg && mag != 0, mag⟩ →
      step s = .next { s with port := rest, reply := .dataReg (neg && mag != 0) mag } ∧
      s.readX i = (if neg then -(mag.toNat : Int) else mag.toNat))

/-- 20_memory R54, R55, 10_state R29: `HReadP` returns the record whatever its tag; `HReadCSR` returns
the register of that number, 0 for the reserved numbers; neither has a side effect. The form of the
answers is the model's (log entry 4). -/
def Obligations.HostPointAndCsrReads : Prop :=
  ∀ (s : State) (rest : List Request), s.phase ≠ .busy →
    (∀ i : RegIdx, HostTurn s (.readP i) rest →
      step s = .next { s with port := rest, reply := .pointReg s.p[i] }) ∧
    (∀ n : Fin 16, HostTurn s (.readCSR n) rest →
      ∃ v : Nat, step s = .next { s with port := rest, reply := .csr v } ∧
        (n = 0 → v = s.statusWord.toNat) ∧ (n = 1 → v = if s.verbose then 1 else 0) ∧
        (n = 2 → v = s.fbase.toNat) ∧ (n = 3 → v = s.frel.toNat) ∧ (n = 4 → v = s.fchr.toNat) ∧
        (n = 5 → v = s.ca.toNat) ∧ (n = 6 → v = s.cb.toNat) ∧ (7 ≤ n → v = 0))

/-- 10_state R32: the bits of `STATUS`. -/
def Obligations.StatusWordLayout : Prop :=
  ∀ s : State,
    s.statusWord.extractLsb' 0 2 =
      (match s.phase with | .idle => 0#2 | .busy => 1#2 | .fatal => 2#2) ∧
    s.statusWord.getLsbD 2 = s.fv ∧ s.statusWord.getLsbD 3 = s.fp ∧
    s.statusWord.getLsbD 4 = s.relv ∧ s.statusWord.getLsbD 5 = s.chv ∧
    s.statusWord.getLsbD 6 = s.cv ∧ s.statusWord.getLsbD 7 = s.flag ∧
    s.statusWord.extractLsb' 8 8 = s.err ∧ s.statusWord.extractLsb' 16 8 = s.fcause ∧
    s.statusWord.extractLsb' 24 8 = 0#8

/-- 20_memory R55, 70_reset_and_hazards R204: while `BUSY` the host can read only `STATUS`, which is the
value before the command with `STATE` replaced by `BUSY`; every operation other than that and `HReset`
does not happen and is not queued. That a request comes before the completion is input data (log
entry 5), and the form of the answers is the model's (log entry 4). -/
def Obligations.BusyHostAccess : Prop :=
  ∀ (s : State) (op : HostOp) (rest : List Request), s.phase = .busy → HostTurn s op rest →
    (op = .readCSR 0 →
      step s = .next { s with port := rest, reply := .csr s.statusWord.toNat } ∧
      s.statusWord = { s with phase := .idle }.statusWord + 1) ∧
    (op ≠ .readCSR 0 → op ≠ .reset → step s = .next { s with port := rest, reply := .notAccepted })

/-- 60_exceptions R189: in the fatal state only reads and `HReset` are accepted, `HIssue`, `HWriteX` and
`HWriteCTRL` change nothing, and `HReset` is the only way out. The form of the answers is the model's
(log entry 4). -/
def Obligations.FatalStateIsFrozen : Prop :=
  ∀ s : State, s.phase = .fatal →
    (s.port = [] → step s = .next s) ∧
    (∀ (op : HostOp) (rest : List Request), HostTurn s op rest → op ≠ .reset →
      ∃ r : Reply, step s = .next { s with port := rest, reply := r } ∧
        (r = .notAccepted ↔
          (∃ w, op = .issue w) ∨ (∃ i n m, op = .writeX i n m) ∨ (∃ v, op = .writeCTRL v))) ∧
    (∀ rest : List Request, HostTurn s .reset rest →
      ∃ (c : CmdWord) (r : Reply),
        step s = .next { State.reset with cmd := c, port := rest, reply := r })

/-- 10_state R33, 20_memory R56: bit 0 of `CTRL` is `VERBOSE`, the other bits read as 0 and ignore
writes, and `VERBOSE` has no effect on what any command does. -/
def Obligations.VerboseHasNoEffect : Prop :=
  (∀ (s : State) (k : Nat), s.ctrlWord.getLsbD k = (decide (k = 0) && s.verbose)) ∧
  (∀ (s : State) (v : BitVec 32) (rest : List Request), s.phase = .idle →
    HostTurn s (.writeCTRL v) rest →
    ∃ r : Reply, step s = .next { s with verbose := v.getLsbD 0, port := rest, reply := r }) ∧
  State.reset.verbose = false ∧
  (∀ (i : Instr) (s t : State) (v : Bool), exec i s = .next t →
    exec i { s with verbose := v } = .next { t with verbose := v })

/-- 10_state R35, 93 U22: outside `BUSY` the command latch is not observable. Two states that differ only
in it make the same step, but for the latch, and give the host the same answer; so the model's reset
value of the latch (log entry 3) shows nowhere. -/
def Obligations.CommandLatchIsUnobservable : Prop :=
  ∀ (s t : State) (c : CmdWord), s.phase ≠ .busy → step s = .next t →
    ∃ c' : CmdWord, step { s with cmd := c } = .next { t with cmd := c' } ∧
      (t.phase = .busy → c' = t.cmd)

/-- 70_reset_and_hazards R206, 20_memory R57: `BUSY` always ends: after at most as many steps as there
are host requests, and one more, the block has left it. -/
def Obligations.BusyAlwaysEnds : Prop :=
  ∀ s : State, s.phase = .busy →
    ∃ k ≤ s.port.length + 1, ∃ t : State, Host.Core.run core k s = .next t ∧ t.phase ≠ .busy

/-- 60_exceptions R180, 70_reset_and_hazards R206: no step ends the machine: every state has a next
state. -/
def Obligations.EveryStepAnswersNext : Prop := ∀ s : State, ∃ t : State, step s = .next t

/-! ### Every command -/

/-- 60_exceptions R180, R181, R188: a command ends in exactly one of three ways: success (`ERR = 0`,
`IDLE`), a typed error that changes only `ERR` and `STATE`, or fatal, which changes only `STATE` and
`FCAUSE`. -/
def Obligations.CommandEndsInOneOfThreeWays : Prop :=
  ∀ (i : Instr) (s : State), ∃ t : State, exec i s = .next t ∧
    ((t.err = 0 ∧ t.phase = .idle ∧ t.fcause = s.fcause) ∨
     (∃ e : TypedError, t = afterError s e.code ∧ t.err ≠ 0) ∨
     (∃ c : FatalCause, t = afterFatal s c.code ∧ t.fcause ≠ 0))

/-- 10_state R22, R24, R28, R30, R31, R35: what no command changes: a data or point register that is no
destination, the tags but for field and curve construction, the field but for field construction, the
cache but for field construction and `FCHAR`, the curve but for construction, `FLAG` but for the three
commands that write it, and never `CTRL`. That the latch keeps its word at completion is the model's
choice (log entry 3; R35 gives the latch no meaning then), as are the host's side fields (log entry 4). -/
def Obligations.CommandFrame : Prop :=
  ∀ (i : Instr) (s t : State), exec i s = .next t →
    (∀ j : RegIdx, j ∉ xDests i → t.x[j] = s.x[j]) ∧
    (∀ j : RegIdx, j ∉ pDests i →
      t.p[j].inf = s.p[j].inf ∧ t.p[j].r = s.p[j].r ∧ t.p[j].s = s.p[j].s) ∧
    (∀ j : RegIdx, j ∉ pDests i → constructsField i = false → constructsCurve i = false →
      t.p[j].tag = s.p[j].tag) ∧
    (constructsField i = false →
      t.fv = s.fv ∧ t.fp = s.fp ∧ t.relv = s.relv ∧ t.fbase = s.fbase ∧ t.frel = s.frel) ∧
    (constructsField i = false → (∀ a, i ≠ .fchar a) → t.chv = s.chv ∧ t.fchr = s.fchr) ∧
    (constructsField i = false → constructsCurve i = false →
      t.cv = s.cv ∧ t.ca = s.ca ∧ t.cb = s.cb) ∧
    (writesFlag i = false → t.flag = s.flag) ∧
    t.verbose = s.verbose ∧ t.cmd = s.cmd ∧ t.port = s.port ∧ t.reply = s.reply

/-- 10_state R28: `FLAG` is written only by the successful completion of `ECCHK`, `ECGET` and `ECEQ`, and
no command reads it: from a state that differs only in `FLAG` a command ends in the same way, with the
same new `FLAG` where it writes it and the old one elsewhere. -/
def Obligations.FlagIsOnlyWritten : Prop :=
  (∀ (i : Instr) (s t : State), exec i s = .next t → t.flag ≠ s.flag →
    ((∃ b c, i = .ecchk b c) ∨ (∃ a b c, i = .ecget a b c) ∨ (∃ b c, i = .eceq b c)) ∧
    t.err = 0 ∧ t.phase = .idle) ∧
  (∀ (i : Instr) (s t : State) (f : Bool), exec i s = .next t →
    exec i { s with flag := f } = .next
      { t with flag := if writesFlag i = true ∧ t.err = 0 ∧ t.phase = .idle then t.flag else f })

/-- 60_exceptions R185: the complete table of operands that end a command with `InvalidOperand` (code
11), for commands that reach phase 5, and no other command raises that code. -/
def Obligations.OperandSignsAreChecked : Prop :=
  ∀ (i : Instr) (s : State),
    (reachesOperandPhase i s → refusesOperands i s → exec i s = .next (afterError s 11)) ∧
    (exec i s = .next (afterError s 11) → refusesOperands i s)

/-- 44_field R112, 46_curve R150, 70_reset_and_hazards R202: a field command without a field, and a curve
command without a curve, end with `NotConfigured` (code 13). -/
def Obligations.CommandsNeedTheirObjects : Prop :=
  ∀ (i : Instr) (s : State), i.wellFormed = true →
    (needsField i = true → s.fv = false → exec i s = .next (afterError s 13)) ∧
    (needsCurve i = true → s.cv = false → exec i s = .next (afterError s 13))

/-- 45_sqrt R140, 46_curve R150: `FSQRT` in non-prime mode or at base 2, and `ECNEW` in non-prime mode,
end with `UnsupportedField` (code 14). -/
def Obligations.UnsupportedFieldIsRefused : Prop :=
  ∀ (s : State) (a b c : RegIdx), s.fv = true →
    (a ≠ b → s.fp = false ∨ s.fbase = 2 → exec (.fsqrt a b c) s = .next (afterError s 14)) ∧
    (s.fp = false → exec (.ecnew b c) s = .next (afterError s 14))

/-- 46_curve R164, 60_exceptions R184: the first source point register whose tag is not `VALID` decides
the error: `EMPTY` is code 13, `STALE_FIELD` code 7, `STALE_CURVE` code 8. -/
def Obligations.StalePointsAreRefused : Prop :=
  ∀ (i : Instr) (s : State) (before after : List RegIdx) (j : RegIdx),
    i.wellFormed = true → s.cv = true → pSources i = before ++ j :: after →
    (∀ k ∈ before, s.p[k].tag = .valid) →
    (s.p[j].tag = .empty → exec i s = .next (afterError s 13)) ∧
    (s.p[j].tag = .staleField → exec i s = .next (afterError s 7)) ∧
    (s.p[j].tag = .staleCurve → exec i s = .next (afterError s 8))

/-! ### The invariant -/

/-- The reset state keeps 10_state R34. -/
def Obligations.InvariantAtReset : Prop := Inv State.reset

/-- 10_state R34, R25: every step, of the host or of the sequencer, keeps the invariant. With it come that
every valid point is on the curve and that the fall-through of the addition law is never reached
(60_exceptions R187). -/
def Obligations.EveryStepKeepsTheInvariant : Prop :=
  ∀ s t : State, Inv s → step s = .next t → Inv t

/-- 60_exceptions R186: for operands that fit a register every command's results fit: no command ends
with `ResultRange` (code 12) in a state that keeps the invariant. -/
def Obligations.ResultRangeNeverOccurs : Prop :=
  ∀ (i : Instr) (s : State), Inv s → exec i s ≠ .next (afterError s 12)

/-- 60_exceptions R183, R187: under the invariant a command raises only the typed errors listed for it,
and only the commands that `reduce` a possibly negative value go fatal, with cause 1, in non-prime mode. -/
def Obligations.CommandsRaiseOnlyListedErrors : Prop :=
  ∀ (i : Instr) (s : State), Inv s →
    (∀ e : TypedError, exec i s = .next (afterError s e.code) → e ∈ mayRaise i) ∧
    (∀ c : FatalCause, exec i s = .next (afterFatal s c.code) →
      c = .negativeNonPrimeReduce ∧ mayGoFatal i = true ∧ s.fv = true ∧ s.fp = false)

/-! ### System and leaf commands -/

/-- 10_state R21, 00_scope R8: for every width `w`, a data register holds every integer of magnitude below
`2^w` exactly, in one form. -/
def Obligations.DataRegisterRoundTrip : Prop :=
  ∀ w : Nat,
  (∀ v : Int, v.natAbs < 2 ^ w →
    ∃ d : SignMag w, SignMag.ofInt v = d ∧ d.toInt = v ∧ ¬(d.neg = true ∧ d.mag = 0)) ∧
  (∀ d : SignMag w, ¬(d.neg = true ∧ d.mag = 0) → SignMag.ofInt d.toInt = d) ∧
  (∀ d : SignMag w, d.toInt.natAbs < 2 ^ w)

/-- 40_system R90: `NOP` clears `ERR` and changes nothing else. -/
def Obligations.NopClearsErr : Prop :=
  ∀ s : State, exec .nop s = .next { s with err := 0, phase := .idle }

/-- 41_modexp R95, R96: `POWMOD` writes `b^e mod m`, and 1 for exponent 0 whatever the modulus. -/
def Obligations.PowmodWritesThePower : Prop :=
  ∀ (s : State) (a b c d : RegIdx), 0 ≤ s.readX b → 0 ≤ s.readX c → 0 < s.readX d →
    exec (.powmod a b c d) s = .next (afterX s a
      (if s.readX c = 0 then 1 else s.readX b ^ (s.readX c).toNat % s.readX d))

/-- 42_modred R100, R101: `REDPOLY` writes the remainder of the division of binary polynomials. -/
def Obligations.RedpolyWritesTheRemainder : Prop :=
  ∀ (s : State) (a b c : RegIdx), 0 ≤ s.readX b → 0 < s.readX c →
    ∃ r : Nat, IsPolyRemainder (s.readX b).toNat (s.readX c).toNat r ∧
      exec (.redpoly a b c) s = .next (afterX s a r)

/-- 43_gcd R105: the recursion of `egcd`, Bézout's identity and the greatest common divisor. The last
clause, the bounds on the coefficients for all arguments, goes beyond the rule: R105 gives them for
`0 <= a, b < 300` and marks them as checked and not proved. -/
def Obligations.EgcdRecursionAndBezout : Prop :=
  ∀ a b : Nat,
    egcd a b = (if a = 0 then (b, 0, 1) else
      ((egcd (b % a) a).1, (egcd (b % a) a).2.2 - ((b / a : Nat) : Int) * (egcd (b % a) a).2.1,
        (egcd (b % a) a).2.1)) ∧
    (a : Int) * (egcd a b).2.1 + (b : Int) * (egcd a b).2.2 = (egcd a b).1 ∧
    (egcd a b).1 = Nat.gcd a b ∧
    (egcd a b).2.1.natAbs ≤ max b 1 ∧ (egcd a b).2.2.natAbs ≤ max a 1

/-- 43_gcd R106, R107: `GCD` writes the greatest common divisor. -/
def Obligations.GcdWritesTheDivisor : Prop :=
  ∀ (s : State) (a b c : RegIdx), 0 ≤ s.readX b → 0 ≤ s.readX c →
    exec (.gcd a b c) s = .next (afterX s a (Int.gcd (s.readX b) (s.readX c)))

/-- 43_gcd R108, R109: `XGCD` writes the triple of the recursion, which satisfies Bézout's identity with
the greatest common divisor; the three results always fit. -/
def Obligations.XgcdWritesTheTriple : Prop :=
  ∀ (s : State) (a b c d e : RegIdx), a ≠ b → a ≠ c → b ≠ c → 0 ≤ s.readX d → 0 ≤ s.readX e →
    ∃ (g : Nat) (x y : Int), (g, x, y) = egcd (s.readX d).toNat (s.readX e).toNat ∧
      s.readX d * x + s.readX e * y = g ∧ g = Int.gcd (s.readX d) (s.readX e) ∧
      exec (.xgcd a b c d e) s = .next
        { s with
          x := ((s.x.set a (SignMag.ofInt g)).set b (SignMag.ofInt x)).set c (SignMag.ofInt y),
          err := 0, phase := .idle }

/-! ### Field construction and field arithmetic -/

/-- 44_field R114: the primality test is exact. -/
def Obligations.PrimalityIsExact : Prop :=
  ∀ n : Int, isPrime n.toNat = true ↔ 2 ≤ n ∧ ∀ d : Int, 1 < d → d < n → ¬ d ∣ n

/-- 44_field R115, R117: `FLDNEW` for a prime base, for a non-prime base with a default relation, and its
refusal otherwise. `DEFREL` itself is open (log entry 2). -/
def Obligations.FieldConstruction : Prop :=
  ∀ (s : State) (b : RegIdx),
    (s.readX b < 2 → exec (.fldnew b) s = .next (afterError s 1)) ∧
    (∀ n : Nat, s.readX b = n → n.Prime →
      exec (.fldnew b) s = .next (afterNewField s n true false 0)) ∧
    (∀ n : Nat, s.readX b = n → 2 ≤ n → ¬ n.Prime →
      match Config.defRel n with
      | some rel =>
          (n = 8 ∨ n = 16 ∨ n = 256) ∧ 0 < rel ∧ rel < 2 ^ Config.W ∧
          exec (.fldnew b) s = .next (afterNewField s n false true rel)
      | none => exec (.fldnew b) s = .next (afterError s 1))

/-- 44_field R116, R117: `FLDNEWR`: a negative relation is `InvalidOperand`, a base below 2 or a
non-prime base with relation 0 is `InvalidField`, and every other pair is stored. -/
def Obligations.FieldConstructionWithRelation : Prop :=
  ∀ (s : State) (b c : RegIdx),
    (s.readX c < 0 → exec (.fldnewr b c) s = .next (afterError s 11)) ∧
    (0 ≤ s.readX c → s.readX b < 2 → exec (.fldnewr b c) s = .next (afterError s 1)) ∧
    (∀ n rel : Nat, s.readX b = n → s.readX c = rel → 2 ≤ n →
      (n.Prime → exec (.fldnewr b c) s = .next (afterNewField s n true true rel)) ∧
      (¬ n.Prime → rel ≠ 0 → exec (.fldnewr b c) s = .next (afterNewField s n false true rel)) ∧
      (¬ n.Prime → rel = 0 → exec (.fldnewr b c) s = .next (afterError s 1)))

/-- 44_field R118 to R125 in prime mode: `FRED`, `FADD`, `FMUL` and `FNEG` compute modulo `FBASE`, the
result in `[0, FBASE)`, for operands of every sign. -/
def Obligations.PrimeFieldRingCommands : Prop :=
  ∀ (s : State) (a b c : RegIdx), s.fv = true → s.fp = true → 0 < s.fbase.toNat →
    exec (.fred a b) s = .next (afterX s a (s.readX b % s.fbase.toNat)) ∧
    exec (.fadd a b c) s = .next (afterX s a ((s.readX b + s.readX c) % s.fbase.toNat)) ∧
    exec (.fmul a b c) s = .next (afterX s a ((s.readX b * s.readX c) % s.fbase.toNat)) ∧
    exec (.fneg a b) s = .next (afterX s a ((-s.readX b) % s.fbase.toNat))

/-- 44_field R123: `FPOW` is `b^e mod FBASE` in both modes, and 1 for exponent 0. -/
def Obligations.FpowWritesThePower : Prop :=
  ∀ (s : State) (a b c : RegIdx), s.fv = true → 0 < s.fbase.toNat →
    0 ≤ s.readX b → 0 ≤ s.readX c →
    exec (.fpow a b c) s = .next (afterX s a
      (if s.readX c = 0 then 1 else s.readX b ^ (s.readX c).toNat % s.fbase.toNat))

/-- 44_field R126, R127 in prime mode: `FINV` writes the inverse modulo the prime, and ends with
`NoInverse` (code 4) exactly for the multiples of the prime. -/
def Obligations.FinvWritesTheInverse : Prop :=
  ∀ (s : State) (a b : RegIdx), s.fv = true → s.fp = true → s.fbase.toNat.Prime →
    (s.readX b % s.fbase.toNat = 0 → exec (.finv a b) s = .next (afterError s 4)) ∧
    (s.readX b % s.fbase.toNat ≠ 0 →
      ∃ v : Nat, 0 < v ∧ v < s.fbase.toNat ∧ s.readX b * v % s.fbase.toNat = 1 ∧
        exec (.finv a b) s = .next (afterX s a v))

/-- 44_field R128, R129 in prime mode: `FDIV` writes the quotient in the field, and ends with
`DivisionByZero` (code 5) exactly when the divisor reduces to zero. -/
def Obligations.FdivWritesTheQuotient : Prop :=
  ∀ (s : State) (a b c : RegIdx), s.fv = true → s.fp = true → s.fbase.toNat.Prime →
    (s.readX c % s.fbase.toNat = 0 → exec (.fdiv a b c) s = .next (afterError s 5)) ∧
    (s.readX c % s.fbase.toNat ≠ 0 →
      ∃ v : Nat, v < s.fbase.toNat ∧
        (v : Int) * s.readX c % s.fbase.toNat = s.readX b % s.fbase.toNat ∧
        exec (.fdiv a b c) s = .next (afterX s a v))

/-- 44_field R113, R118 to R125 in non-prime mode: the literal formulas of `FRED`, `FADD`, `FMUL` and
`FNEG`, with the remainder of binary polynomials; a negative value that reaches `reduce` is fatal with
cause 1. -/
def Obligations.NonPrimeRingCommands : Prop :=
  ∀ (s : State) (a b c : RegIdx), s.fv = true → s.fp = false → s.frel ≠ 0 →
    (s.readX b < 0 → exec (.fred a b) s = .next (afterFatal s 1) ∧
      exec (.fneg a b) s = .next (afterFatal s 1)) ∧
    (0 ≤ s.readX b → ∃ r : Nat, IsPolyRemainder (s.readX b).toNat s.frel.toNat r ∧
      exec (.fred a b) s = .next (afterX s a r) ∧
      exec (.fneg a b) s = .next (afterX s a (if r = 0 then 0 else (s.fbase.toNat : Int) - r))) ∧
    (s.readX b < 0 ∨ s.readX c < 0 → exec (.fadd a b c) s = .next (afterFatal s 1)) ∧
    (0 ≤ s.readX b → 0 ≤ s.readX c →
      ∃ r : Nat, IsPolyRemainder ((s.readX b).toNat ^^^ (s.readX c).toNat) s.frel.toNat r ∧
        exec (.fadd a b c) s = .next (afterX s a r)) ∧
    (s.readX b * s.readX c < 0 → exec (.fmul a b c) s = .next (afterFatal s 1)) ∧
    (0 ≤ s.readX b * s.readX c →
      ∃ r : Nat, IsPolyRemainder (s.readX b * s.readX c).toNat s.frel.toNat r ∧
        exec (.fmul a b c) s = .next (afterX s a r))

/-- 44_field R113, R126 to R129 in non-prime mode: the literal formulas of `FINV` and `FDIV`: the Bézout
coefficient by `FBASE`, reduced, and the reduced integer product with it; a zero residue is `NoInverse`
or `DivisionByZero`, a negative value that reaches `reduce` is fatal with cause 1. -/
def Obligations.NonPrimeInverseCommands : Prop :=
  ∀ (s : State) (a b c : RegIdx) (r : Nat) (x : Int), s.fv = true → s.fp = false → s.frel ≠ 0 →
    (s.readX c < 0 → exec (.finv a c) s = .next (afterFatal s 1) ∧
      exec (.fdiv a b c) s = .next (afterFatal s 1)) ∧
    (0 ≤ s.readX c → IsPolyRemainder (s.readX c).toNat s.frel.toNat r →
      x = (egcd r s.fbase.toNat).2.1 →
      (r = 0 → exec (.finv a c) s = .next (afterError s 4) ∧
        exec (.fdiv a b c) s = .next (afterError s 5)) ∧
      (r ≠ 0 → x < 0 → exec (.finv a c) s = .next (afterFatal s 1) ∧
        exec (.fdiv a b c) s = .next (afterFatal s 1)) ∧
      (r ≠ 0 → 0 ≤ x → ∃ v : Nat, IsPolyRemainder x.toNat s.frel.toNat v ∧
        exec (.finv a c) s = .next (afterX s a v) ∧
        (s.readX b * v < 0 → exec (.fdiv a b c) s = .next (afterFatal s 1)) ∧
        (0 ≤ s.readX b * v → ∃ q : Nat, IsPolyRemainder (s.readX b * v).toNat s.frel.toNat q ∧
          exec (.fdiv a b c) s = .next (afterX s a q))))

/-- 44_field R130, R131: `FCHAR` writes `FBASE` in prime mode; in non-prime mode the cached value, or, the
first time, 2 (1 for the relation of degree 0), which fills the cache. -/
def Obligations.FcharWritesTheCharacteristic : Prop :=
  ∀ (s : State) (a : RegIdx), s.fv = true →
    (s.fp = true → exec (.fchar a) s = .next (afterX s a s.fbase.toNat)) ∧
    (s.fp = false → s.chv = true → exec (.fchar a) s = .next (afterX s a s.fchr.toNat)) ∧
    (s.fp = false → s.chv = false → s.frel ≠ 0 →
      ∃ v : Nat, v = (if s.frel = 1 then 1 else 2) ∧
        exec (.fchar a) s = .next
          { afterX s a v with fchr := BitVec.ofNat Config.W v, chv := true })

/-- 45_sqrt R141, R142, R144: for an odd prime, `FSQRT` succeeds exactly for the squares that are not
zero, and writes the two square roots `w1` to `A` and `p - w1` to `B`, `w1` being the root that R141
fixes; otherwise it ends with `NoRoot` (code 6). -/
def Obligations.FsqrtWritesBothRoots : Prop :=
  ∀ (s : State) (a b c : RegIdx), a ≠ b → s.fv = true → s.fp = true → s.fbase.toNat.Prime →
    s.fbase ≠ 2 → 0 ≤ s.readX c →
    ((s.readX c % s.fbase.toNat ≠ 0 ∧
        ∃ y : Nat, ((y * y : Nat) : Int) % s.fbase.toNat = s.readX c % s.fbase.toNat) →
      ∃ w : Nat, 0 < w ∧ w < s.fbase.toNat ∧
        IsFirstRoot s.fbase.toNat (s.readX c).toNat w ∧
        ((w * w : Nat) : Int) % s.fbase.toNat = s.readX c % s.fbase.toNat ∧
        (((s.fbase.toNat - w) * (s.fbase.toNat - w) : Nat) : Int) % s.fbase.toNat =
          s.readX c % s.fbase.toNat ∧
        exec (.fsqrt a b c) s = .next
          { s with
            x := (s.x.set a (SignMag.ofInt w)).set b
              (SignMag.ofInt ((s.fbase.toNat : Int) - w)),
            err := 0, phase := .idle }) ∧
    ((s.readX c % s.fbase.toNat = 0 ∨
        ¬∃ y : Nat, ((y * y : Nat) : Int) % s.fbase.toNat = s.readX c % s.fbase.toNat) →
      exec (.fsqrt a b c) s = .next (afterError s 6))

/-! ### Curve commands -/

/-- 46_curve R151: `ECNEW` stores the reduced coefficients and makes every `VALID` point stale, or ends
with `SingularCurve` (code 2) when the discriminant reduces to zero. -/
def Obligations.CurveConstruction : Prop :=
  ∀ (s : State) (b c : RegIdx) (a' b' : Nat), s.fv = true → s.fp = true → 0 < s.fbase.toNat →
    (a' : Int) = s.readX b % s.fbase.toNat → (b' : Int) = s.readX c % s.fbase.toNat →
    ((4 * a' ^ 3 + 27 * b' ^ 2) % s.fbase.toNat = 0 →
      exec (.ecnew b c) s = .next (afterError s 2)) ∧
    ((4 * a' ^ 3 + 27 * b' ^ 2) % s.fbase.toNat ≠ 0 →
      exec (.ecnew b c) s = .next (afterNewCurve s a' b'))

/-- 46_curve R152, R153, R154: `ECPOINT` succeeds exactly when `ECCHK` reports 1, and stores the reduced
coordinates; off the curve it ends with `PointNotOnCurve` (code 3) and `ECCHK` reports 0. -/
def Obligations.PointValidation : Prop :=
  ∀ (s : State) (a b c : RegIdx) (r t : Nat), s.cv = true → s.fp = true → 0 < s.fbase.toNat →
    0 ≤ s.readX b → 0 ≤ s.readX c →
    (r : Int) = s.readX b % s.fbase.toNat → (t : Int) = s.readX c % s.fbase.toNat →
    (OnCurveMod s.fbase.toNat s.ca.toNat s.cb.toNat r t →
      exec (.ecpoint a b c) s = .next
        (afterP s a ⟨.valid, false, BitVec.ofNat Config.W r, BitVec.ofNat Config.W t⟩) ∧
      exec (.ecchk b c) s = .next { s with flag := true, err := 0, phase := .idle }) ∧
    (¬ OnCurveMod s.fbase.toNat s.ca.toNat s.cb.toNat r t →
      exec (.ecpoint a b c) s = .next (afterError s 3) ∧
      exec (.ecchk b c) s = .next { s with flag := false, err := 0, phase := .idle })

/-- 46_curve R155: `ECINF` writes the infinity point. -/
def Obligations.EcinfWritesInfinity : Prop :=
  ∀ (s : State) (a : RegIdx), s.cv = true →
    exec (.ecinf a) s = .next (afterP s a ⟨.valid, true, 0, 0⟩)

/-- 46_curve R156, R157, for points of a prime field with reduced coordinates: the cases of the addition
law in their order, with the chord's or the tangent's slope `m`. -/
def Obligations.EcaddFollowsTheCases : Prop :=
  ∀ (s : State) (a b c : RegIdx) (p r1 s1 r2 s2 : Nat), s.cv = true → s.fp = true →
    p = s.fbase.toNat → p.Prime → s.p[b].tag = .valid → s.p[c].tag = .valid →
    r1 = s.p[b].r.toNat → s1 = s.p[b].s.toNat → r2 = s.p[c].r.toNat → s2 = s.p[c].s.toNat →
    r1 < p → s1 < p → r2 < p → s2 < p →
    (s.p[b].inf = true → s.p[c].inf = true →
      exec (.ecadd a b c) s = .next (afterP s a ⟨.valid, true, 0, 0⟩)) ∧
    (s.p[b].inf = true → s.p[c].inf = false →
      exec (.ecadd a b c) s = .next (afterP s a ⟨.valid, false, s.p[c].r, s.p[c].s⟩)) ∧
    (s.p[b].inf = false → s.p[c].inf = true →
      exec (.ecadd a b c) s = .next (afterP s a ⟨.valid, false, s.p[b].r, s.p[b].s⟩)) ∧
    (s.p[b].inf = false → s.p[c].inf = false →
      (r1 ≠ r2 ∨ (r1 = r2 ∧ s1 = s2 ∧ (s1 + s2) % p ≠ 0) →
        ∃ m r3 s3 : Nat, m < p ∧ r3 < p ∧ s3 < p ∧
          (r1 ≠ r2 → ((m : Int) * ((r2 : Int) - r1) - ((s2 : Int) - s1)) % p = 0) ∧
          (r1 = r2 → ((m : Int) * (2 * s1) - (3 * r1 ^ 2 + s.ca.toNat)) % p = 0) ∧
          ((r3 : Int) - ((m : Int) ^ 2 - r1 - r2)) % p = 0 ∧
          ((s3 : Int) + ((m : Int) ^ 3 - 2 * m * r1 - m * r2 + s1)) % p = 0 ∧
          exec (.ecadd a b c) s = .next
            (afterP s a ⟨.valid, false, BitVec.ofNat Config.W r3, BitVec.ofNat Config.W s3⟩)) ∧
      (r1 = r2 → (s1 + s2) % p = 0 →
        exec (.ecadd a b c) s = .next (afterP s a ⟨.valid, true, 0, 0⟩)) ∧
      (r1 = r2 → s1 ≠ s2 → (s1 + s2) % p ≠ 0 →
        exec (.ecadd a b c) s = .next (afterFatal s 2)))

/-- 10_state R25, 46_curve R165 (d): under the invariant, `ECADD` of valid points and `ECMUL` by a scalar
of at least 1 complete, and the point they write is infinity in its one form, or reduced and on the
curve. -/
def Obligations.PointCommandsStayOnTheCurve : Prop :=
  ∀ (s : State) (a b c : RegIdx), Inv s → s.cv = true → s.p[b].tag = .valid →
    (s.p[c].tag = .valid → ∃ q : PointReg, exec (.ecadd a b c) s = .next (afterP s a q) ∧
      q.tag = .valid ∧ (q.inf = true → q.r = 0 ∧ q.s = 0) ∧
      (q.inf = false → q.r.toNat < s.fbase.toNat ∧ q.s.toNat < s.fbase.toNat ∧
        OnCurveMod s.fbase.toNat s.ca.toNat s.cb.toNat q.r.toNat q.s.toNat)) ∧
    (1 ≤ s.readX c → ∃ q : PointReg, exec (.ecmul a b c) s = .next (afterP s a q) ∧
      q.tag = .valid ∧ (q.inf = true → q.r = 0 ∧ q.s = 0) ∧
      (q.inf = false → q.r.toNat < s.fbase.toNat ∧ q.s.toNat < s.fbase.toNat ∧
        OnCurveMod s.fbase.toNat s.ca.toNat s.cb.toNat q.r.toNat q.s.toNat))

/-- 46_curve R156, R157: over every prime field but that of 2 elements, `ECADD` is the addition of the
group of points of the curve `y^2 = x^3 + CA*x + CB`; every `VALID` register stands for such a point. -/
def Obligations.EcaddIsTheGroupLaw : Prop :=
  ∀ (s : State) [Fact s.fbase.toNat.Prime] (a b c : RegIdx), Inv s → s.cv = true → s.fbase ≠ 2 →
    s.p[b].tag = .valid → s.p[c].tag = .valid →
    (∃ P : (curveOf s).Point, Represents s.p[b] P) ∧
    ∀ P Q : (curveOf s).Point, Represents s.p[b] P → Represents s.p[c] Q →
      ∃ q : PointReg, exec (.ecadd a b c) s = .next (afterP s a q) ∧ Represents q (P + Q)

/-- 46_curve R160, R161: over every prime field, that of 2 elements included, `ECMUL` is double-and-add:
by 1 it copies the point, by `2k` it is the `ECADD` doubling of the multiple by `k`, and by `2k + 1` the
`ECADD` of that and the point, which fixes its value for every scalar. Over every prime field but that of
2 elements it is the `n`-fold sum in the group of points of the curve. -/
def Obligations.EcmulIsTheScalarMultiple : Prop :=
  (∀ (s : State) (a b c d : RegIdx), Inv s → s.cv = true → s.p[b].tag = .valid → 1 ≤ s.readX c →
    ∃ q : PointReg, exec (.ecmul a b c) s = .next (afterP s a q) ∧
      (s.readX c = 1 → q = s.p[b]) ∧
      ∃ t : State, exec (.ecadd a a a) (afterP s a q) = .next t ∧
        (s.readX d = 2 * s.readX c → exec (.ecmul a b d) s = .next t) ∧
        (s.readX d = 2 * s.readX c + 1 → a ≠ b → exec (.ecmul a b d) s = exec (.ecadd a a b) t)) ∧
  (∀ (s : State) [Fact s.fbase.toNat.Prime] (a b c : RegIdx), Inv s → s.cv = true → s.fbase ≠ 2 →
    1 ≤ s.readX c →
    ∀ P : (curveOf s).Point, Represents s.p[b] P →
      ∃ q : PointReg, exec (.ecmul a b c) s = .next (afterP s a q) ∧
        Represents q ((s.readX c).toNat • P))

/-- 46_curve R158, R159: `ECNEG` negates the second coordinate modulo the prime, and infinity is its own
negative. -/
def Obligations.EcnegNegatesThePoint : Prop :=
  ∀ (s : State) (a b : RegIdx), s.cv = true → s.fp = true → 0 < s.fbase.toNat →
    s.p[b].tag = .valid →
    (s.p[b].inf = true → exec (.ecneg a b) s = .next (afterP s a ⟨.valid, true, 0, 0⟩)) ∧
    (s.p[b].inf = false → ∃ v : Nat, v < s.fbase.toNat ∧ (v + s.p[b].s.toNat) % s.fbase.toNat = 0 ∧
      exec (.ecneg a b) s =
        .next (afterP s a ⟨.valid, false, s.p[b].r, BitVec.ofNat Config.W v⟩))

/-- 46_curve R159, R165 (a): the `ECADD` of a point and its `ECNEG` is infinity. -/
def Obligations.PointPlusNegativeIsInfinity : Prop :=
  ∀ (s : State) (b d e : RegIdx), Inv s → s.cv = true → s.p[b].tag = .valid → d ≠ b →
    ∃ t : State, exec (.ecneg d b) s = .next t ∧
      exec (.ecadd e b d) t = .next (afterP t e ⟨.valid, true, 0, 0⟩)

/-- 46_curve R161, R165 (c): twice a point is its doubling, and four times a point is twice its double. -/
def Obligations.ScalarTwoAndFour : Prop :=
  ∀ (s : State) (a b c d e : RegIdx), Inv s → s.cv = true → s.p[b].tag = .valid →
    (s.readX d = 2 → exec (.ecmul a b d) s = exec (.ecadd a b b) s) ∧
    (s.readX c = 4 → s.readX d = 2 →
      ∃ t u v : State, exec (.ecmul e b d) s = .next t ∧ exec (.ecmul a e d) t = .next u ∧
        exec (.ecmul a b c) s = .next v ∧ u.p[a] = v.p[a])

/-- 46_curve R161: a scalar below 1 ends `ECMUL` with `InvalidScalar` (code 9). -/
def Obligations.ScalarBelowOneIsRefused : Prop :=
  ∀ (s : State) (a b c : RegIdx), Inv s → s.cv = true → s.p[b].tag = .valid → s.readX c < 1 →
    exec (.ecmul a b c) s = .next (afterError s 9)

/-- 46_curve R162, R163, 10_state R26: `ECGET` copies the coordinates and the infinity marker; `ECEQ` sets
`FLAG` to the equality of the two points, in which the tag takes no part. -/
def Obligations.PointReadoutAndEquality : Prop :=
  ∀ (s : State) (a b c d : RegIdx), s.cv = true → s.p[c].tag = .valid →
    (a ≠ b → exec (.ecget a b c) s = .next
      { s with
        x := (s.x.set a (SignMag.ofInt s.p[c].r.toNat)).set b (SignMag.ofInt s.p[c].s.toNat),
        flag := s.p[c].inf, err := 0, phase := .idle }) ∧
    (s.p[d].tag = .valid →
      ∃ f : Bool, exec (.eceq c d) s = .next { s with flag := f, err := 0, phase := .idle } ∧
        (f = true ↔ (s.p[c].inf = true ∧ s.p[d].inf = true) ∨
          (s.p[c].inf = false ∧ s.p[d].inf = false ∧ s.p[c].r = s.p[d].r ∧ s.p[c].s = s.p[d].s)))

end
end

