-- ==== Sys2Proof/Laws/State.lean ====
section
/-!
SUPPORT. One lemma per field per update of the state, each true by `rfl`, so that no proof unfolds a
record update.
-/
namespace Sys2Proof.Machine

/-- The kernel-friendly map is the map. -/
theorem mapRegs_eq_map {α : Type} (f : α → α) (v : Vector α 16) : mapRegs f v = v.map f := by
  apply Vector.toArray_inj.mp
  apply Array.toList_inj.mp
  simp [mapRegs]

@[simp] theorem mapRegs_getElem {α : Type} (f : α → α) (v : Vector α 16) (i : Nat) (h : i < 16) :
    (mapRegs f v)[i] = f v[i] := by rw [mapRegs_eq_map]; simp

variable {w : Nat} (s : State w)

/-! ### `writeX` -/

@[simp] theorem writeX_x (i : RegIdx) (v : Int) :
    (State.writeX s i v).x = s.x.set i (SignMag.ofInt v) := rfl
@[simp] theorem writeX_p (i : RegIdx) (v : Int) : (State.writeX s i v).p = s.p := rfl
@[simp] theorem writeX_phase (i : RegIdx) (v : Int) : (State.writeX s i v).phase = s.phase := rfl
@[simp] theorem writeX_fv (i : RegIdx) (v : Int) : (State.writeX s i v).fv = s.fv := rfl
@[simp] theorem writeX_fp (i : RegIdx) (v : Int) : (State.writeX s i v).fp = s.fp := rfl
@[simp] theorem writeX_relv (i : RegIdx) (v : Int) : (State.writeX s i v).relv = s.relv := rfl
@[simp] theorem writeX_chv (i : RegIdx) (v : Int) : (State.writeX s i v).chv = s.chv := rfl
@[simp] theorem writeX_cv (i : RegIdx) (v : Int) : (State.writeX s i v).cv = s.cv := rfl
@[simp] theorem writeX_flag (i : RegIdx) (v : Int) : (State.writeX s i v).flag = s.flag := rfl
@[simp] theorem writeX_err (i : RegIdx) (v : Int) : (State.writeX s i v).err = s.err := rfl
@[simp] theorem writeX_fcause (i : RegIdx) (v : Int) : (State.writeX s i v).fcause = s.fcause := rfl
@[simp] theorem writeX_verbose (i : RegIdx) (v : Int) :
    (State.writeX s i v).verbose = s.verbose := rfl
@[simp] theorem writeX_fbase (i : RegIdx) (v : Int) : (State.writeX s i v).fbase = s.fbase := rfl
@[simp] theorem writeX_frel (i : RegIdx) (v : Int) : (State.writeX s i v).frel = s.frel := rfl
@[simp] theorem writeX_fchr (i : RegIdx) (v : Int) : (State.writeX s i v).fchr = s.fchr := rfl
@[simp] theorem writeX_ca (i : RegIdx) (v : Int) : (State.writeX s i v).ca = s.ca := rfl
@[simp] theorem writeX_cb (i : RegIdx) (v : Int) : (State.writeX s i v).cb = s.cb := rfl
@[simp] theorem writeX_cmd (i : RegIdx) (v : Int) : (State.writeX s i v).cmd = s.cmd := rfl
@[simp] theorem writeX_port (i : RegIdx) (v : Int) : (State.writeX s i v).port = s.port := rfl
@[simp] theorem writeX_reply (i : RegIdx) (v : Int) : (State.writeX s i v).reply = s.reply := rfl

/-! ### `writeP` -/

@[simp] theorem writeP_x (i : RegIdx) (q : PointReg w) : (State.writeP s i q).x = s.x := rfl
@[simp] theorem writeP_p (i : RegIdx) (q : PointReg w) : (State.writeP s i q).p = s.p.set i q := rfl
@[simp] theorem writeP_phase (i : RegIdx) (q : PointReg w) :
    (State.writeP s i q).phase = s.phase := rfl
@[simp] theorem writeP_fv (i : RegIdx) (q : PointReg w) : (State.writeP s i q).fv = s.fv := rfl
@[simp] theorem writeP_fp (i : RegIdx) (q : PointReg w) : (State.writeP s i q).fp = s.fp := rfl
@[simp] theorem writeP_relv (i : RegIdx) (q : PointReg w) : (State.writeP s i q).relv = s.relv := rfl
@[simp] theorem writeP_chv (i : RegIdx) (q : PointReg w) : (State.writeP s i q).chv = s.chv := rfl
@[simp] theorem writeP_cv (i : RegIdx) (q : PointReg w) : (State.writeP s i q).cv = s.cv := rfl
@[simp] theorem writeP_flag (i : RegIdx) (q : PointReg w) : (State.writeP s i q).flag = s.flag := rfl
@[simp] theorem writeP_err (i : RegIdx) (q : PointReg w) : (State.writeP s i q).err = s.err := rfl
@[simp] theorem writeP_fcause (i : RegIdx) (q : PointReg w) :
    (State.writeP s i q).fcause = s.fcause := rfl
@[simp] theorem writeP_verbose (i : RegIdx) (q : PointReg w) :
    (State.writeP s i q).verbose = s.verbose := rfl
@[simp] theorem writeP_fbase (i : RegIdx) (q : PointReg w) :
    (State.writeP s i q).fbase = s.fbase := rfl
@[simp] theorem writeP_frel (i : RegIdx) (q : PointReg w) : (State.writeP s i q).frel = s.frel := rfl
@[simp] theorem writeP_fchr (i : RegIdx) (q : PointReg w) : (State.writeP s i q).fchr = s.fchr := rfl
@[simp] theorem writeP_ca (i : RegIdx) (q : PointReg w) : (State.writeP s i q).ca = s.ca := rfl
@[simp] theorem writeP_cb (i : RegIdx) (q : PointReg w) : (State.writeP s i q).cb = s.cb := rfl
@[simp] theorem writeP_cmd (i : RegIdx) (q : PointReg w) : (State.writeP s i q).cmd = s.cmd := rfl
@[simp] theorem writeP_port (i : RegIdx) (q : PointReg w) : (State.writeP s i q).port = s.port := rfl
@[simp] theorem writeP_reply (i : RegIdx) (q : PointReg w) :
    (State.writeP s i q).reply = s.reply := rfl

/-! ### `retag` -/

@[simp] theorem retag_x (f : Tag → Tag) : (State.retag s f).x = s.x := rfl
@[simp] theorem retag_p (f : Tag → Tag) :
    (State.retag s f).p = mapRegs (fun q => { q with tag := f q.tag }) s.p := rfl
@[simp] theorem retag_phase (f : Tag → Tag) : (State.retag s f).phase = s.phase := rfl
@[simp] theorem retag_fv (f : Tag → Tag) : (State.retag s f).fv = s.fv := rfl
@[simp] theorem retag_fp (f : Tag → Tag) : (State.retag s f).fp = s.fp := rfl
@[simp] theorem retag_relv (f : Tag → Tag) : (State.retag s f).relv = s.relv := rfl
@[simp] theorem retag_chv (f : Tag → Tag) : (State.retag s f).chv = s.chv := rfl
@[simp] theorem retag_cv (f : Tag → Tag) : (State.retag s f).cv = s.cv := rfl
@[simp] theorem retag_flag (f : Tag → Tag) : (State.retag s f).flag = s.flag := rfl
@[simp] theorem retag_err (f : Tag → Tag) : (State.retag s f).err = s.err := rfl
@[simp] theorem retag_fcause (f : Tag → Tag) : (State.retag s f).fcause = s.fcause := rfl
@[simp] theorem retag_verbose (f : Tag → Tag) : (State.retag s f).verbose = s.verbose := rfl
@[simp] theorem retag_fbase (f : Tag → Tag) : (State.retag s f).fbase = s.fbase := rfl
@[simp] theorem retag_frel (f : Tag → Tag) : (State.retag s f).frel = s.frel := rfl
@[simp] theorem retag_fchr (f : Tag → Tag) : (State.retag s f).fchr = s.fchr := rfl
@[simp] theorem retag_ca (f : Tag → Tag) : (State.retag s f).ca = s.ca := rfl
@[simp] theorem retag_cb (f : Tag → Tag) : (State.retag s f).cb = s.cb := rfl
@[simp] theorem retag_cmd (f : Tag → Tag) : (State.retag s f).cmd = s.cmd := rfl
@[simp] theorem retag_port (f : Tag → Tag) : (State.retag s f).port = s.port := rfl
@[simp] theorem retag_reply (f : Tag → Tag) : (State.retag s f).reply = s.reply := rfl

/-! ### `setFlag` -/

@[simp] theorem setFlag_x (f : Bool) : (State.setFlag s f).x = s.x := rfl
@[simp] theorem setFlag_p (f : Bool) : (State.setFlag s f).p = s.p := rfl
@[simp] theorem setFlag_phase (f : Bool) : (State.setFlag s f).phase = s.phase := rfl
@[simp] theorem setFlag_fv (f : Bool) : (State.setFlag s f).fv = s.fv := rfl
@[simp] theorem setFlag_fp (f : Bool) : (State.setFlag s f).fp = s.fp := rfl
@[simp] theorem setFlag_relv (f : Bool) : (State.setFlag s f).relv = s.relv := rfl
@[simp] theorem setFlag_chv (f : Bool) : (State.setFlag s f).chv = s.chv := rfl
@[simp] theorem setFlag_cv (f : Bool) : (State.setFlag s f).cv = s.cv := rfl
@[simp] theorem setFlag_flag (f : Bool) : (State.setFlag s f).flag = f := rfl
@[simp] theorem setFlag_err (f : Bool) : (State.setFlag s f).err = s.err := rfl
@[simp] theorem setFlag_fcause (f : Bool) : (State.setFlag s f).fcause = s.fcause := rfl
@[simp] theorem setFlag_verbose (f : Bool) : (State.setFlag s f).verbose = s.verbose := rfl
@[simp] theorem setFlag_fbase (f : Bool) : (State.setFlag s f).fbase = s.fbase := rfl
@[simp] theorem setFlag_frel (f : Bool) : (State.setFlag s f).frel = s.frel := rfl
@[simp] theorem setFlag_fchr (f : Bool) : (State.setFlag s f).fchr = s.fchr := rfl
@[simp] theorem setFlag_ca (f : Bool) : (State.setFlag s f).ca = s.ca := rfl
@[simp] theorem setFlag_cb (f : Bool) : (State.setFlag s f).cb = s.cb := rfl
@[simp] theorem setFlag_cmd (f : Bool) : (State.setFlag s f).cmd = s.cmd := rfl
@[simp] theorem setFlag_port (f : Bool) : (State.setFlag s f).port = s.port := rfl
@[simp] theorem setFlag_reply (f : Bool) : (State.setFlag s f).reply = s.reply := rfl

/-! ### `endTyped` -/

@[simp] theorem endTyped_x (e : TypedError) : (State.endTyped s e).x = s.x := rfl
@[simp] theorem endTyped_p (e : TypedError) : (State.endTyped s e).p = s.p := rfl
@[simp] theorem endTyped_phase (e : TypedError) : (State.endTyped s e).phase = .idle := rfl
@[simp] theorem endTyped_fv (e : TypedError) : (State.endTyped s e).fv = s.fv := rfl
@[simp] theorem endTyped_fp (e : TypedError) : (State.endTyped s e).fp = s.fp := rfl
@[simp] theorem endTyped_relv (e : TypedError) : (State.endTyped s e).relv = s.relv := rfl
@[simp] theorem endTyped_chv (e : TypedError) : (State.endTyped s e).chv = s.chv := rfl
@[simp] theorem endTyped_cv (e : TypedError) : (State.endTyped s e).cv = s.cv := rfl
@[simp] theorem endTyped_flag (e : TypedError) : (State.endTyped s e).flag = s.flag := rfl
@[simp] theorem endTyped_err (e : TypedError) : (State.endTyped s e).err = e.code := rfl
@[simp] theorem endTyped_fcause (e : TypedError) : (State.endTyped s e).fcause = s.fcause := rfl
@[simp] theorem endTyped_verbose (e : TypedError) : (State.endTyped s e).verbose = s.verbose := rfl
@[simp] theorem endTyped_fbase (e : TypedError) : (State.endTyped s e).fbase = s.fbase := rfl
@[simp] theorem endTyped_frel (e : TypedError) : (State.endTyped s e).frel = s.frel := rfl
@[simp] theorem endTyped_fchr (e : TypedError) : (State.endTyped s e).fchr = s.fchr := rfl
@[simp] theorem endTyped_ca (e : TypedError) : (State.endTyped s e).ca = s.ca := rfl
@[simp] theorem endTyped_cb (e : TypedError) : (State.endTyped s e).cb = s.cb := rfl
@[simp] theorem endTyped_cmd (e : TypedError) : (State.endTyped s e).cmd = s.cmd := rfl
@[simp] theorem endTyped_port (e : TypedError) : (State.endTyped s e).port = s.port := rfl
@[simp] theorem endTyped_reply (e : TypedError) : (State.endTyped s e).reply = s.reply := rfl

/-! ### `endFatal` -/

@[simp] theorem endFatal_x (c : FatalCause) : (State.endFatal s c).x = s.x := rfl
@[simp] theorem endFatal_p (c : FatalCause) : (State.endFatal s c).p = s.p := rfl
@[simp] theorem endFatal_phase (c : FatalCause) : (State.endFatal s c).phase = .fatal := rfl
@[simp] theorem endFatal_fv (c : FatalCause) : (State.endFatal s c).fv = s.fv := rfl
@[simp] theorem endFatal_fp (c : FatalCause) : (State.endFatal s c).fp = s.fp := rfl
@[simp] theorem endFatal_relv (c : FatalCause) : (State.endFatal s c).relv = s.relv := rfl
@[simp] theorem endFatal_chv (c : FatalCause) : (State.endFatal s c).chv = s.chv := rfl
@[simp] theorem endFatal_cv (c : FatalCause) : (State.endFatal s c).cv = s.cv := rfl
@[simp] theorem endFatal_flag (c : FatalCause) : (State.endFatal s c).flag = s.flag := rfl
@[simp] theorem endFatal_err (c : FatalCause) : (State.endFatal s c).err = s.err := rfl
@[simp] theorem endFatal_fcause (c : FatalCause) : (State.endFatal s c).fcause = c.code := rfl
@[simp] theorem endFatal_verbose (c : FatalCause) : (State.endFatal s c).verbose = s.verbose := rfl
@[simp] theorem endFatal_fbase (c : FatalCause) : (State.endFatal s c).fbase = s.fbase := rfl
@[simp] theorem endFatal_frel (c : FatalCause) : (State.endFatal s c).frel = s.frel := rfl
@[simp] theorem endFatal_fchr (c : FatalCause) : (State.endFatal s c).fchr = s.fchr := rfl
@[simp] theorem endFatal_ca (c : FatalCause) : (State.endFatal s c).ca = s.ca := rfl
@[simp] theorem endFatal_cb (c : FatalCause) : (State.endFatal s c).cb = s.cb := rfl
@[simp] theorem endFatal_cmd (c : FatalCause) : (State.endFatal s c).cmd = s.cmd := rfl
@[simp] theorem endFatal_port (c : FatalCause) : (State.endFatal s c).port = s.port := rfl
@[simp] theorem endFatal_reply (c : FatalCause) : (State.endFatal s c).reply = s.reply := rfl

/-! ### `endSuccess` -/

@[simp] theorem endSuccess_x : (State.endSuccess s).x = s.x := rfl
@[simp] theorem endSuccess_p : (State.endSuccess s).p = s.p := rfl
@[simp] theorem endSuccess_phase : (State.endSuccess s).phase = .idle := rfl
@[simp] theorem endSuccess_fv : (State.endSuccess s).fv = s.fv := rfl
@[simp] theorem endSuccess_fp : (State.endSuccess s).fp = s.fp := rfl
@[simp] theorem endSuccess_relv : (State.endSuccess s).relv = s.relv := rfl
@[simp] theorem endSuccess_chv : (State.endSuccess s).chv = s.chv := rfl
@[simp] theorem endSuccess_cv : (State.endSuccess s).cv = s.cv := rfl
@[simp] theorem endSuccess_flag : (State.endSuccess s).flag = s.flag := rfl
@[simp] theorem endSuccess_err : (State.endSuccess s).err = 0 := rfl
@[simp] theorem endSuccess_fcause : (State.endSuccess s).fcause = s.fcause := rfl
@[simp] theorem endSuccess_verbose : (State.endSuccess s).verbose = s.verbose := rfl
@[simp] theorem endSuccess_fbase : (State.endSuccess s).fbase = s.fbase := rfl
@[simp] theorem endSuccess_frel : (State.endSuccess s).frel = s.frel := rfl
@[simp] theorem endSuccess_fchr : (State.endSuccess s).fchr = s.fchr := rfl
@[simp] theorem endSuccess_ca : (State.endSuccess s).ca = s.ca := rfl
@[simp] theorem endSuccess_cb : (State.endSuccess s).cb = s.cb := rfl
@[simp] theorem endSuccess_cmd : (State.endSuccess s).cmd = s.cmd := rfl
@[simp] theorem endSuccess_port : (State.endSuccess s).port = s.port := rfl
@[simp] theorem endSuccess_reply : (State.endSuccess s).reply = s.reply := rfl

/-! ### `fieldCommit` -/

@[simp] theorem fieldCommit_x (base : Nat) (fp relv : Bool) (rel : Nat) :
    (fieldCommit s base fp relv rel).x = s.x := rfl
@[simp] theorem fieldCommit_p (base : Nat) (fp relv : Bool) (rel : Nat) :
    (fieldCommit s base fp relv rel).p = mapRegs (fun q => { q with tag := q.tag.afterField }) s.p := rfl
@[simp] theorem fieldCommit_phase (base : Nat) (fp relv : Bool) (rel : Nat) :
    (fieldCommit s base fp relv rel).phase = s.phase := rfl
@[simp] theorem fieldCommit_fv (base : Nat) (fp relv : Bool) (rel : Nat) :
    (fieldCommit s base fp relv rel).fv = true := rfl
@[simp] theorem fieldCommit_fp (base : Nat) (fp relv : Bool) (rel : Nat) :
    (fieldCommit s base fp relv rel).fp = fp := rfl
@[simp] theorem fieldCommit_relv (base : Nat) (fp relv : Bool) (rel : Nat) :
    (fieldCommit s base fp relv rel).relv = relv := rfl
@[simp] theorem fieldCommit_chv (base : Nat) (fp relv : Bool) (rel : Nat) :
    (fieldCommit s base fp relv rel).chv = false := rfl
@[simp] theorem fieldCommit_cv (base : Nat) (fp relv : Bool) (rel : Nat) :
    (fieldCommit s base fp relv rel).cv = false := rfl
@[simp] theorem fieldCommit_flag (base : Nat) (fp relv : Bool) (rel : Nat) :
    (fieldCommit s base fp relv rel).flag = s.flag := rfl
@[simp] theorem fieldCommit_err (base : Nat) (fp relv : Bool) (rel : Nat) :
    (fieldCommit s base fp relv rel).err = s.err := rfl
@[simp] theorem fieldCommit_fcause (base : Nat) (fp relv : Bool) (rel : Nat) :
    (fieldCommit s base fp relv rel).fcause = s.fcause := rfl
@[simp] theorem fieldCommit_verbose (base : Nat) (fp relv : Bool) (rel : Nat) :
    (fieldCommit s base fp relv rel).verbose = s.verbose := rfl
@[simp] theorem fieldCommit_fbase (base : Nat) (fp relv : Bool) (rel : Nat) :
    (fieldCommit s base fp relv rel).fbase = BitVec.ofNat w base := rfl
@[simp] theorem fieldCommit_frel (base : Nat) (fp relv : Bool) (rel : Nat) :
    (fieldCommit s base fp relv rel).frel = BitVec.ofNat w rel := rfl
@[simp] theorem fieldCommit_fchr (base : Nat) (fp relv : Bool) (rel : Nat) :
    (fieldCommit s base fp relv rel).fchr = 0 := rfl
@[simp] theorem fieldCommit_ca (base : Nat) (fp relv : Bool) (rel : Nat) :
    (fieldCommit s base fp relv rel).ca = 0 := rfl
@[simp] theorem fieldCommit_cb (base : Nat) (fp relv : Bool) (rel : Nat) :
    (fieldCommit s base fp relv rel).cb = 0 := rfl
@[simp] theorem fieldCommit_cmd (base : Nat) (fp relv : Bool) (rel : Nat) :
    (fieldCommit s base fp relv rel).cmd = s.cmd := rfl
@[simp] theorem fieldCommit_port (base : Nat) (fp relv : Bool) (rel : Nat) :
    (fieldCommit s base fp relv rel).port = s.port := rfl
@[simp] theorem fieldCommit_reply (base : Nat) (fp relv : Bool) (rel : Nat) :
    (fieldCommit s base fp relv rel).reply = s.reply := rfl

/-! ### `curveCommit` -/

@[simp] theorem curveCommit_x (a b : Nat) : (curveCommit s a b).x = s.x := rfl
@[simp] theorem curveCommit_p (a b : Nat) :
    (curveCommit s a b).p = mapRegs (fun q => { q with tag := q.tag.afterCurve }) s.p := rfl
@[simp] theorem curveCommit_phase (a b : Nat) : (curveCommit s a b).phase = s.phase := rfl
@[simp] theorem curveCommit_fv (a b : Nat) : (curveCommit s a b).fv = s.fv := rfl
@[simp] theorem curveCommit_fp (a b : Nat) : (curveCommit s a b).fp = s.fp := rfl
@[simp] theorem curveCommit_relv (a b : Nat) : (curveCommit s a b).relv = s.relv := rfl
@[simp] theorem curveCommit_chv (a b : Nat) : (curveCommit s a b).chv = s.chv := rfl
@[simp] theorem curveCommit_cv (a b : Nat) : (curveCommit s a b).cv = true := rfl
@[simp] theorem curveCommit_flag (a b : Nat) : (curveCommit s a b).flag = s.flag := rfl
@[simp] theorem curveCommit_err (a b : Nat) : (curveCommit s a b).err = s.err := rfl
@[simp] theorem curveCommit_fcause (a b : Nat) : (curveCommit s a b).fcause = s.fcause := rfl
@[simp] theorem curveCommit_verbose (a b : Nat) : (curveCommit s a b).verbose = s.verbose := rfl
@[simp] theorem curveCommit_fbase (a b : Nat) : (curveCommit s a b).fbase = s.fbase := rfl
@[simp] theorem curveCommit_frel (a b : Nat) : (curveCommit s a b).frel = s.frel := rfl
@[simp] theorem curveCommit_fchr (a b : Nat) : (curveCommit s a b).fchr = s.fchr := rfl
@[simp] theorem curveCommit_ca (a b : Nat) : (curveCommit s a b).ca = BitVec.ofNat w a := rfl
@[simp] theorem curveCommit_cb (a b : Nat) : (curveCommit s a b).cb = BitVec.ofNat w b := rfl
@[simp] theorem curveCommit_cmd (a b : Nat) : (curveCommit s a b).cmd = s.cmd := rfl
@[simp] theorem curveCommit_port (a b : Nat) : (curveCommit s a b).port = s.port := rfl
@[simp] theorem curveCommit_reply (a b : Nat) : (curveCommit s a b).reply = s.reply := rfl

end Sys2Proof.Machine
end

