-- ==== Sys2Proof/Laws/Ops.lean ====
section
/-!
SUPPORT. One lemma per shared operation that says once what it can do, for the proofs to cite.
-/
namespace Sys2Proof.Machine

/-! ### Computations that may stop -/

@[simp] theorem alg_pure {α : Type} (v : α) : (pure v : Alg α) = .ok v := rfl

@[simp] theorem alg_ok_bind {α β : Type} (v : α) (f : α → Alg β) :
    ((Except.ok v : Alg α) >>= f) = f v := rfl

@[simp] theorem alg_error_bind {α β : Type} (e : Stop) (f : α → Alg β) :
    ((Except.error e : Alg α) >>= f) = .error e := rfl

/-- A sequence of two computations succeeds exactly when both do. -/
theorem bind_eq_ok {α β : Type} {x : Alg α} {f : α → Alg β} {w : β} :
    (x >>= f) = .ok w ↔ ∃ v, x = .ok v ∧ f v = .ok w := by
  cases x <;> simp

/-- A sequence of two computations stops where the first of them stops. -/
theorem bind_eq_error {α β : Type} {x : Alg α} {f : α → Alg β} {e : Stop} :
    (x >>= f) = .error e ↔ x = .error e ∨ ∃ v, x = .ok v ∧ f v = .error e := by
  cases x <;> simp

@[simp] theorem raise_eq {α : Type} (e : TypedError) : (raise e : Alg α) = .error (.raised e) := rfl

@[simp] theorem fatal_eq {α : Type} (c : FatalCause) : (fatal c : Alg α) = .error (.fatal c) := rfl

@[simp] theorem require_true (e : TypedError) : require true e = .ok () := rfl

@[simp] theorem require_false (e : TypedError) : require false e = .error (.raised e) := rfl

/-- A check succeeds exactly when its condition holds. -/
theorem require_eq_ok {ok : Bool} {e : TypedError} {u : Unit} :
    require ok e = .ok u ↔ ok = true := by cases ok <;> simp

/-- A check stops only with its own typed error, exactly when its condition does not hold. -/
theorem require_eq_error {ok : Bool} {e : TypedError} {r : Stop} :
    require ok e = .error r ↔ ok = false ∧ r = .raised e := by
  cases ok <;> simp [eq_comm]

/-! ### How a command ends -/

@[simp] theorem finish_ok {w : Nat} (s t : State w) : s.finish (.ok t) = t.endSuccess := rfl

@[simp] theorem finish_raised {w : Nat} (s : State w) (e : TypedError) :
    s.finish (.error (.raised e)) = s.endTyped e := rfl

@[simp] theorem finish_fatal {w : Nat} (s : State w) (c : FatalCause) :
    s.finish (.error (.fatal c)) = s.endFatal c := rfl

/-- 60_exceptions R180: everything the end of a command can be. -/
theorem finish_cases {w : Nat} (s : State w) (r : Alg (State w)) :
    (∃ t, r = .ok t ∧ s.finish r = t.endSuccess) ∨
    (∃ e, r = .error (.raised e) ∧ s.finish r = s.endTyped e) ∨
    (∃ c, r = .error (.fatal c) ∧ s.finish r = s.endFatal c) := by
  rcases r with (e | c) | t
  · exact .inr (.inl ⟨e, rfl, rfl⟩)
  · exact .inr (.inr ⟨c, rfl, rfl⟩)
  · exact .inl ⟨t, rfl, rfl⟩

/-- A command answers the next state that `State.finish` gives, and nothing else. -/
theorem command_eq_next {w : Nat} {s t : State w} {r : Alg (State w)} :
    s.command r = .next t ↔ t = s.finish r := by
  simp [State.command, eq_comm]

/-- 60_exceptions R182: every typed error has a code from 1 to 14. -/
theorem typedError_code_range (e : TypedError) : e.code ≠ 0 ∧ e.code.toNat ≤ 14 := by
  cases e <;> decide

/-- 60_exceptions R182: two typed errors with one code are one. -/
theorem typedError_code_inj {e f : TypedError} (h : e.code = f.code) : e = f := by
  revert h; cases e <;> cases f <;> decide

/-- 60_exceptions R187: every fatal cause has a code that is not 0. -/
theorem fatalCause_code_ne (c : FatalCause) : c.code ≠ 0 := by cases c <;> decide

/-! ### Registers -/

/-- A write of one data register leaves the others. -/
theorem readX_writeX_ne {w : Nat} {s : State w} {i j : RegIdx} (v : Int) (h : i ≠ j) :
    (s.writeX i v).readX j = s.readX j := by
  have : i.val ≠ j.val := fun e => h (Fin.ext e)
  simp [State.readX, State.writeX, this]

/-- What a write of one data register leaves in it. -/
theorem readX_writeX_self {w : Nat} (s : State w) (i : RegIdx) (v : Int) :
    (s.writeX i v).readX i = (SignMag.ofInt v : SignMag w).toInt := by
  simp [State.readX, State.writeX]

/-- A write of one point register leaves the others. -/
theorem readP_writeP_ne {w : Nat} {s : State w} {i j : RegIdx} (q : PointReg w) (h : i ≠ j) :
    (s.writeP i q).readP j = s.readP j := by
  have : i.val ≠ j.val := fun e => h (Fin.ext e)
  simp [State.readP, State.writeP, this]

/-- A point register holds what was written to it. -/
theorem readP_writeP_self {w : Nat} (s : State w) (i : RegIdx) (q : PointReg w) :
    (s.writeP i q).readP i = q := by
  simp [State.readP, State.writeP]

/-- Changing all tags changes nothing else of a point register. -/
theorem readP_retag {w : Nat} (s : State w) (f : Tag → Tag) (i : RegIdx) :
    (s.retag f).readP i = { s.readP i with tag := f (s.readP i).tag } := by
  simp [State.readP, State.retag]

/-- A magnitude is below `2^W` (10_state R21). -/
theorem readX_natAbs_lt {w : Nat} (s : State w) (i : RegIdx) : (s.readX i).natAbs < 2 ^ w := by
  have h := s.x[i].mag.isLt
  simp only [State.readX, SignMag.toInt]
  split <;> simpa using h

/-- No negative zero is ever built (10_state R21, 20_memory R52). -/
theorem ofParts_canonical {w : Nat} (neg : Bool) (mag : Word w) :
    (SignMag.ofParts neg mag).neg = true → (SignMag.ofParts neg mag).mag ≠ 0 := by
  simp [SignMag.ofParts]

/-! ### Operands and results -/

/-- The four answers of the tag check (46_curve R164). -/
theorem checkTag_cases (t : Tag) :
    (t = .valid ∧ checkTag t = .ok ()) ∨
    (t = .empty ∧ checkTag t = .error (.raised .notConfigured)) ∨
    (t = .staleField ∧ checkTag t = .error (.raised .pointsNotSameField)) ∨
    (t = .staleCurve ∧ checkTag t = .error (.raised .pointsNotSameCurve)) := by
  cases t <;> simp [checkTag]

/-- A P source is read exactly when its tag is `VALID`. -/
theorem sourceP_eq_ok {w : Nat} {s : State w} {i : RegIdx} {q : PointReg w} :
    sourceP s i = .ok q ↔ (s.readP i).tag = .valid ∧ q = s.readP i := by
  unfold sourceP
  rcases checkTag_cases (s.readP i).tag with ⟨h, e⟩ | ⟨h, e⟩ | ⟨h, e⟩ | ⟨h, e⟩ <;>
    rw [e] <;> simp [h, eq_comm]

/-- The result-range check (60_exceptions R186). -/
theorem checkRange_of_lt {w : Nat} {v : Int} (h : v.natAbs < 2 ^ w) : checkRange w v = .ok () := by
  simp only [checkRange, h, decide_true, require_true]

/-- A command with one X destination commits exactly the results that fit. -/
theorem commitX_eq_ok {w : Nat} {s t : State w} {a : RegIdx} {v : Int} :
    commitX s a v = .ok t ↔ v.natAbs < 2 ^ w ∧ t = s.writeX a v := by
  simp [commitX, checkRange, bind_eq_ok, require_eq_ok, @eq_comm _ t]

/-- A result that does not fit ends a one-destination command with `ResultRange`, and nothing else does. -/
theorem commitX_eq_error {w : Nat} {s : State w} {a : RegIdx} {v : Int} {r : Stop} :
    commitX s a v = .error r ↔ ¬ v.natAbs < 2 ^ w ∧ r = .raised .resultRange := by
  simp [commitX, checkRange, bind_eq_error, require_eq_error]

/-- A command with two X destinations commits exactly the pairs that fit. -/
theorem commitX2_eq_ok {w : Nat} {s t : State w} {a b : RegIdx} {v u : Int} :
    commitX2 s a b v u = .ok t ↔
      v.natAbs < 2 ^ w ∧ u.natAbs < 2 ^ w ∧ t = (s.writeX a v).writeX b u := by
  simp [commitX2, checkRange, bind_eq_ok, require_eq_ok, @eq_comm _ t]

/-- A command with three X destinations commits exactly the triples that fit. -/
theorem commitX3_eq_ok {w : Nat} {s t : State w} {a b c : RegIdx} {v u z : Int} :
    commitX3 s a b c v u z = .ok t ↔
      v.natAbs < 2 ^ w ∧ u.natAbs < 2 ^ w ∧ z.natAbs < 2 ^ w ∧
        t = ((s.writeX a v).writeX b u).writeX c z := by
  simp [commitX3, checkRange, bind_eq_ok, require_eq_ok, @eq_comm _ t]

/-! ### The pure functions' stops -/

/-- `reduce` in prime mode never stops (44_field R118). -/
theorem reduce_prime {f : FieldCfg} (h : f.prime = true) (n : Int) :
    reduce f n = .ok (n % (f.base : Int)).toNat := by simp [reduce, h]

/-- `reduce` in non-prime mode is fatal for a negative integer, and the polynomial remainder otherwise
(44_field R118). -/
theorem reduce_nonPrime {f : FieldCfg} (h : f.prime = false) (n : Int) :
    reduce f n = if n < 0 then .error (.fatal .negativeNonPrimeReduce)
      else .ok (reducePoly n.toNat f.rel) := by simp [reduce, h]

/-- `f_neg` in prime mode (44_field R124). -/
theorem fNeg_prime {f : FieldCfg} (h : f.prime = true) (n : Int) :
    fNeg f n = .ok (if (n % (f.base : Int)).toNat = 0 then 0
      else (f.base : Int) - (n % (f.base : Int)).toNat) := by
  simp [fNeg, reduce_prime h]

/-! ### Steps -/

/-- Everything a step can be: a host operation that comes first in the port, the completion of the
command in flight, or nothing. -/
theorem step_cases (s : State) :
    (∃ q rest, s.port = q :: rest ∧ (s.phase = .busy → q.early = true) ∧
      step s = .next (hostStep q.op { s with port := rest })) ∨
    ((∀ q rest, s.port = q :: rest → q.early = false) ∧ s.phase = .busy ∧
      step s = runCommand s) ∨
    (s.port = [] ∧ s.phase ≠ .busy ∧ step s = .next s) := by
  cases hp : s.port with
  | nil =>
      by_cases hb : s.phase = .busy
      · exact .inr (.inl ⟨by simp, hb, by simp [step, takeRequest, hp, sequencerStep, hb]⟩)
      · exact .inr (.inr ⟨rfl, hb, by simp [step, takeRequest, hp, sequencerStep, hb]⟩)
  | cons q rest =>
      by_cases hb : s.phase = .busy ∧ q.early = false
      · refine .inr (.inl ⟨?_, hb.1, ?_⟩)
        · rintro q' rest' h
          cases h
          exact hb.2
        · simp [step, takeRequest, hp, sequencerStep, hb]
      · refine .inl ⟨q, rest, rfl, ?_, ?_⟩
        · intro h
          cases he : q.early
          · exact absurd ⟨h, he⟩ hb
          · rfl
        · simp [step, takeRequest, hp, hb]

/-- A host operation that is not accepted changes only the host's side (20_memory R51). -/
theorem hostStep_not_accepted {w : Nat} {op : HostOp w} {s : State w}
    (h : op.acceptedIn s.phase = false) :
    hostStep op s = { s with reply := .notAccepted } := by simp [hostStep, h]

/-- A host operation that is accepted has its effect (20_memory R52 to R58). -/
theorem hostStep_accepted {w : Nat} {op : HostOp w} {s : State w}
    (h : op.acceptedIn s.phase = true) :
    hostStep op s = hostEffect op s := by simp [hostStep, h]

end Sys2Proof.Machine
end

