-- ==== Sys2Proof/Laws/Word.lean ====
section
/-!
SUPPORT. The bits of a command word (30_encoding R71).
-/
namespace Sys2Proof

/-- R71: which field each bit of a packed word comes from. -/
theorem packWord_getLsbD (op : BitVec 8) (a b c d e : RegIdx) (i : Nat) :
    (packWord op a b c d e).getLsbD i =
      if i < 4 then false
      else if i < 8 then e.val.testBit (i - 4)
      else if i < 12 then d.val.testBit (i - 8)
      else if i < 16 then c.val.testBit (i - 12)
      else if i < 20 then b.val.testBit (i - 16)
      else if i < 24 then a.val.testBit (i - 20)
      else op.getLsbD (i - 24) := by
  simp only [packWord, BitVec.getLsbD_append, BitVec.getLsbD_ofFin, BitVec.getLsbD_zero]
  split_ifs <;> first | rfl | omega

/-- A register index is the value of its four bits. -/
theorem regIdx_eq_of_testBit {i j : RegIdx} (h : ∀ k < 4, i.val.testBit k = j.val.testBit k) :
    i = j := by
  apply Fin.ext
  apply Nat.eq_of_testBit_eq
  intro k
  by_cases hk : k < 4
  · exact h k hk
  · have hp : 16 ≤ 2 ^ k := le_trans (by norm_num) (Nat.pow_le_pow_right (by norm_num) (not_lt.mp hk))
    rw [Nat.testBit_lt_two_pow (lt_of_lt_of_le i.isLt hp),
      Nat.testBit_lt_two_pow (lt_of_lt_of_le j.isLt hp)]

/-- A register field read bit by bit. -/
theorem regField_testBit (w : CmdWord) (lo k : Nat) (hk : k < 4) :
    (regField w lo).val.testBit k = w.getLsbD (lo + k) := by
  have h : (w.extractLsb' lo 4).getLsbD k = w.getLsbD (lo + k) := by
    rw [BitVec.getLsbD_extractLsb']; simp [hk]
  rw [← h]; rfl

/-- The decoder reads each register field where the encoder puts it (R71). -/
theorem regField_packWord (op : BitVec 8) (a b c d e : RegIdx) :
    regField (packWord op a b c d e) 20 = a ∧ regField (packWord op a b c d e) 16 = b ∧
      regField (packWord op a b c d e) 12 = c ∧ regField (packWord op a b c d e) 8 = d ∧
      regField (packWord op a b c d e) 4 = e := by
  refine ⟨?_, ?_, ?_, ?_, ?_⟩ <;>
  · apply regIdx_eq_of_testBit
    intro k hk
    rw [regField_testBit _ _ _ hk, packWord_getLsbD]
    split_ifs <;> first | omega | (congr 1; omega)

end Sys2Proof
end

