-- ==== Sys2Proof/Machine/Assembler.lean ====
section
/-!
DEFINITION. The text form of a command (30_encoding R77) and the one pseudo-instruction (R78).
-/
namespace Sys2Proof.Machine

/-- An operand in the text form: `x0` to `x15` or `p0` to `p15` (30_encoding R77). -/
inductive AsmOperand where
  | dataReg (i : RegIdx)
  | pointReg (i : RegIdx)
deriving DecidableEq, Repr

/-- `ECDBL pd, ps` expands to `ECADD pd, ps, ps` (30_encoding R78). -/
def ecdbl (pd ps : RegIdx) : Instr := .ecadd pd ps ps

/-- The mnemonic of a command (30_encoding R73). -/
def asmMnemonic : Instr → String
  | .nop => "NOP"
  | .powmod _ _ _ _ => "POWMOD"
  | .redpoly _ _ _ => "REDPOLY"
  | .gcd _ _ _ => "GCD"
  | .xgcd _ _ _ _ _ => "XGCD"
  | .fldnew _ => "FLDNEW"
  | .fldnewr _ _ => "FLDNEWR"
  | .fred _ _ => "FRED"
  | .fadd _ _ _ => "FADD"
  | .fmul _ _ _ => "FMUL"
  | .fpow _ _ _ => "FPOW"
  | .fneg _ _ => "FNEG"
  | .finv _ _ => "FINV"
  | .fdiv _ _ _ => "FDIV"
  | .fsqrt _ _ _ => "FSQRT"
  | .fchar _ => "FCHAR"
  | .ecnew _ _ => "ECNEW"
  | .ecpoint _ _ _ => "ECPOINT"
  | .ecchk _ _ => "ECCHK"
  | .ecinf _ => "ECINF"
  | .ecadd _ _ _ => "ECADD"
  | .ecneg _ _ => "ECNEG"
  | .ecmul _ _ _ => "ECMUL"
  | .ecget _ _ _ => "ECGET"
  | .eceq _ _ => "ECEQ"

/-- The operands in field order A, B, C, D, E, the unused fields skipped (30_encoding R77), each an X or
a P register as R73 says. -/
def asmOperands : Instr → List AsmOperand
  | .nop => []
  | .powmod a b c d => [.dataReg a, .dataReg b, .dataReg c, .dataReg d]
  | .redpoly a b c => [.dataReg a, .dataReg b, .dataReg c]
  | .gcd a b c => [.dataReg a, .dataReg b, .dataReg c]
  | .xgcd a b c d e => [.dataReg a, .dataReg b, .dataReg c, .dataReg d, .dataReg e]
  | .fldnew b => [.dataReg b]
  | .fldnewr b c => [.dataReg b, .dataReg c]
  | .fred a b => [.dataReg a, .dataReg b]
  | .fadd a b c => [.dataReg a, .dataReg b, .dataReg c]
  | .fmul a b c => [.dataReg a, .dataReg b, .dataReg c]
  | .fpow a b c => [.dataReg a, .dataReg b, .dataReg c]
  | .fneg a b => [.dataReg a, .dataReg b]
  | .finv a b => [.dataReg a, .dataReg b]
  | .fdiv a b c => [.dataReg a, .dataReg b, .dataReg c]
  | .fsqrt a b c => [.dataReg a, .dataReg b, .dataReg c]
  | .fchar a => [.dataReg a]
  | .ecnew b c => [.dataReg b, .dataReg c]
  | .ecpoint a b c => [.pointReg a, .dataReg b, .dataReg c]
  | .ecchk b c => [.dataReg b, .dataReg c]
  | .ecinf a => [.pointReg a]
  | .ecadd a b c => [.pointReg a, .pointReg b, .pointReg c]
  | .ecneg a b => [.pointReg a, .pointReg b]
  | .ecmul a b c => [.pointReg a, .pointReg b, .dataReg c]
  | .ecget a b c => [.dataReg a, .dataReg b, .pointReg c]
  | .eceq b c => [.pointReg b, .pointReg c]

/-- An operand's text. -/
def AsmOperand.text : AsmOperand → String
  | .dataReg i => "x" ++ toString i.val
  | .pointReg i => "p" ++ toString i.val

/-- The operands' text, separated by a comma and a space. -/
def asmOperandText : List AsmOperand → String
  | [] => ""
  | [o] => o.text
  | o :: os => o.text ++ ", " ++ asmOperandText os

/-- `MNEMONIC operand, operand, ...` (30_encoding R77); `NOP` has no operand and is its mnemonic alone. -/
def asmText (i : Instr) : String :=
  match asmOperands i with
  | [] => asmMnemonic i
  | os => asmMnemonic i ++ " " ++ asmOperandText os

end Sys2Proof.Machine
end

