-- ==== Sys2Proof/Laws/PerInstr.lean ====
section
/-!
SUPPORT. Statements about every command, one lemma per constructor of `Instr`.
-/
namespace Sys2Proof.Laws.EncodingFitsItsRow

/-- 30_encoding R73: the word of a command fits the row of the opcode map that has its mnemonic. -/
def Statement (i : Instr) : Prop :=
  ∃ r ∈ opcodeRows, r.mnemonic = Machine.asmMnemonic i ∧ encode i &&& r.mask = r.pattern

/-- A packed word fits a mask and a pattern when it does so bit by bit. -/
theorem pack_fits {op : BitVec 8} {a b c d e : RegIdx} {mask pattern : CmdWord}
    (h : ∀ i < 32, ((packWord op a b c d e).getLsbD i && mask.getLsbD i) = pattern.getLsbD i) :
    packWord op a b c d e &&& mask = pattern :=
  BitVec.eq_of_getLsbD_eq fun i hi => by rw [BitVec.getLsbD_and]; exact h i hi

theorem nop : Statement .nop := by
  refine ⟨opcodeRows[0], by simp [opcodeRows, leafRows, fieldRows, curveRows], rfl, pack_fits ?_⟩
  intro i hi
  rw [packWord_getLsbD]
  interval_cases i <;> simp [opcodeRows, leafRows, fieldRows, curveRows]

theorem powmod (a b c d : RegIdx) : Statement (.powmod a b c d) := by
  refine ⟨opcodeRows[1], by simp [opcodeRows, leafRows, fieldRows, curveRows], rfl, pack_fits ?_⟩
  intro i hi
  rw [packWord_getLsbD]
  interval_cases i <;> simp [opcodeRows, leafRows, fieldRows, curveRows]

theorem redpoly (a b c : RegIdx) : Statement (.redpoly a b c) := by
  refine ⟨opcodeRows[2], by simp [opcodeRows, leafRows, fieldRows, curveRows], rfl, pack_fits ?_⟩
  intro i hi
  rw [packWord_getLsbD]
  interval_cases i <;> simp [opcodeRows, leafRows, fieldRows, curveRows]

theorem gcd (a b c : RegIdx) : Statement (.gcd a b c) := by
  refine ⟨opcodeRows[3], by simp [opcodeRows, leafRows, fieldRows, curveRows], rfl, pack_fits ?_⟩
  intro i hi
  rw [packWord_getLsbD]
  interval_cases i <;> simp [opcodeRows, leafRows, fieldRows, curveRows]

theorem xgcd (a b c d e : RegIdx) : Statement (.xgcd a b c d e) := by
  refine ⟨opcodeRows[4], by simp [opcodeRows, leafRows, fieldRows, curveRows], rfl, pack_fits ?_⟩
  intro i hi
  rw [packWord_getLsbD]
  interval_cases i <;> simp [opcodeRows, leafRows, fieldRows, curveRows]

theorem fldnew (b : RegIdx) : Statement (.fldnew b) := by
  refine ⟨opcodeRows[5], by simp [opcodeRows, leafRows, fieldRows, curveRows], rfl, pack_fits ?_⟩
  intro i hi
  rw [packWord_getLsbD]
  interval_cases i <;> simp [opcodeRows, leafRows, fieldRows, curveRows]

theorem fldnewr (b c : RegIdx) : Statement (.fldnewr b c) := by
  refine ⟨opcodeRows[6], by simp [opcodeRows, leafRows, fieldRows, curveRows], rfl, pack_fits ?_⟩
  intro i hi
  rw [packWord_getLsbD]
  interval_cases i <;> simp [opcodeRows, leafRows, fieldRows, curveRows]

theorem fred (a b : RegIdx) : Statement (.fred a b) := by
  refine ⟨opcodeRows[7], by simp [opcodeRows, leafRows, fieldRows, curveRows], rfl, pack_fits ?_⟩
  intro i hi
  rw [packWord_getLsbD]
  interval_cases i <;> simp [opcodeRows, leafRows, fieldRows, curveRows]

theorem fadd (a b c : RegIdx) : Statement (.fadd a b c) := by
  refine ⟨opcodeRows[8], by simp [opcodeRows, leafRows, fieldRows, curveRows], rfl, pack_fits ?_⟩
  intro i hi
  rw [packWord_getLsbD]
  interval_cases i <;> simp [opcodeRows, leafRows, fieldRows, curveRows]

theorem fmul (a b c : RegIdx) : Statement (.fmul a b c) := by
  refine ⟨opcodeRows[9], by simp [opcodeRows, leafRows, fieldRows, curveRows], rfl, pack_fits ?_⟩
  intro i hi
  rw [packWord_getLsbD]
  interval_cases i <;> simp [opcodeRows, leafRows, fieldRows, curveRows]

theorem fpow (a b c : RegIdx) : Statement (.fpow a b c) := by
  refine ⟨opcodeRows[10], by simp [opcodeRows, leafRows, fieldRows, curveRows], rfl, pack_fits ?_⟩
  intro i hi
  rw [packWord_getLsbD]
  interval_cases i <;> simp [opcodeRows, leafRows, fieldRows, curveRows]

theorem fneg (a b : RegIdx) : Statement (.fneg a b) := by
  refine ⟨opcodeRows[11], by simp [opcodeRows, leafRows, fieldRows, curveRows], rfl, pack_fits ?_⟩
  intro i hi
  rw [packWord_getLsbD]
  interval_cases i <;> simp [opcodeRows, leafRows, fieldRows, curveRows]

theorem finv (a b : RegIdx) : Statement (.finv a b) := by
  refine ⟨opcodeRows[12], by simp [opcodeRows, leafRows, fieldRows, curveRows], rfl, pack_fits ?_⟩
  intro i hi
  rw [packWord_getLsbD]
  interval_cases i <;> simp [opcodeRows, leafRows, fieldRows, curveRows]

theorem fdiv (a b c : RegIdx) : Statement (.fdiv a b c) := by
  refine ⟨opcodeRows[13], by simp [opcodeRows, leafRows, fieldRows, curveRows], rfl, pack_fits ?_⟩
  intro i hi
  rw [packWord_getLsbD]
  interval_cases i <;> simp [opcodeRows, leafRows, fieldRows, curveRows]

theorem fsqrt (a b c : RegIdx) : Statement (.fsqrt a b c) := by
  refine ⟨opcodeRows[14], by simp [opcodeRows, leafRows, fieldRows, curveRows], rfl, pack_fits ?_⟩
  intro i hi
  rw [packWord_getLsbD]
  interval_cases i <;> simp [opcodeRows, leafRows, fieldRows, curveRows]

theorem fchar (a : RegIdx) : Statement (.fchar a) := by
  refine ⟨opcodeRows[15], by simp [opcodeRows, leafRows, fieldRows, curveRows], rfl, pack_fits ?_⟩
  intro i hi
  rw [packWord_getLsbD]
  interval_cases i <;> simp [opcodeRows, leafRows, fieldRows, curveRows]

theorem ecnew (b c : RegIdx) : Statement (.ecnew b c) := by
  refine ⟨opcodeRows[16], by simp [opcodeRows, leafRows, fieldRows, curveRows], rfl, pack_fits ?_⟩
  intro i hi
  rw [packWord_getLsbD]
  interval_cases i <;> simp [opcodeRows, leafRows, fieldRows, curveRows]

theorem ecpoint (a b c : RegIdx) : Statement (.ecpoint a b c) := by
  refine ⟨opcodeRows[17], by simp [opcodeRows, leafRows, fieldRows, curveRows], rfl, pack_fits ?_⟩
  intro i hi
  rw [packWord_getLsbD]
  interval_cases i <;> simp [opcodeRows, leafRows, fieldRows, curveRows]

theorem ecchk (b c : RegIdx) : Statement (.ecchk b c) := by
  refine ⟨opcodeRows[18], by simp [opcodeRows, leafRows, fieldRows, curveRows], rfl, pack_fits ?_⟩
  intro i hi
  rw [packWord_getLsbD]
  interval_cases i <;> simp [opcodeRows, leafRows, fieldRows, curveRows]

theorem ecinf (a : RegIdx) : Statement (.ecinf a) := by
  refine ⟨opcodeRows[19], by simp [opcodeRows, leafRows, fieldRows, curveRows], rfl, pack_fits ?_⟩
  intro i hi
  rw [packWord_getLsbD]
  interval_cases i <;> simp [opcodeRows, leafRows, fieldRows, curveRows]

theorem ecadd (a b c : RegIdx) : Statement (.ecadd a b c) := by
  refine ⟨opcodeRows[20], by simp [opcodeRows, leafRows, fieldRows, curveRows], rfl, pack_fits ?_⟩
  intro i hi
  rw [packWord_getLsbD]
  interval_cases i <;> simp [opcodeRows, leafRows, fieldRows, curveRows]

theorem ecneg (a b : RegIdx) : Statement (.ecneg a b) := by
  refine ⟨opcodeRows[21], by simp [opcodeRows, leafRows, fieldRows, curveRows], rfl, pack_fits ?_⟩
  intro i hi
  rw [packWord_getLsbD]
  interval_cases i <;> simp [opcodeRows, leafRows, fieldRows, curveRows]

theorem ecmul (a b c : RegIdx) : Statement (.ecmul a b c) := by
  refine ⟨opcodeRows[22], by simp [opcodeRows, leafRows, fieldRows, curveRows], rfl, pack_fits ?_⟩
  intro i hi
  rw [packWord_getLsbD]
  interval_cases i <;> simp [opcodeRows, leafRows, fieldRows, curveRows]

theorem ecget (a b c : RegIdx) : Statement (.ecget a b c) := by
  refine ⟨opcodeRows[23], by simp [opcodeRows, leafRows, fieldRows, curveRows], rfl, pack_fits ?_⟩
  intro i hi
  rw [packWord_getLsbD]
  interval_cases i <;> simp [opcodeRows, leafRows, fieldRows, curveRows]

theorem eceq (b c : RegIdx) : Statement (.eceq b c) := by
  refine ⟨opcodeRows[24], by simp [opcodeRows, leafRows, fieldRows, curveRows], rfl, pack_fits ?_⟩
  intro i hi
  rw [packWord_getLsbD]
  interval_cases i <;> simp [opcodeRows, leafRows, fieldRows, curveRows]

end Sys2Proof.Laws.EncodingFitsItsRow
end

