-- ==== Sys2Proof/Laws/Pure.lean ====
section
/-!
SUPPORT. What the pure functions of the spec compute, one lemma per function and mode, for the proofs
to cite instead of unfolding a loop.
-/
namespace Sys2Proof.Machine

/-! ### Bit lengths (00_scope R11) -/

@[simp] theorem bitlen_zero : bitlen 0 = 0 := rfl

/-- A number is below `2^bitlen`. -/
theorem lt_two_pow_bitlen (v : Nat) : v < 2 ^ bitlen v := by
  unfold bitlen
  split
  · omega
  · exact Nat.lt_log2_self

/-- A positive number is at least `2^(bitlen - 1)`. -/
theorem two_pow_bitlen_le {v : Nat} (h : v ≠ 0) : 2 ^ (bitlen v - 1) ≤ v := by
  simpa [bitlen, h] using Nat.log2_self_le h

/-- A bit length is at most `k` exactly for the numbers below `2^k`. -/
theorem bitlen_le_iff {v k : Nat} : bitlen v ≤ k ↔ v < 2 ^ k := by
  unfold bitlen
  split
  · simp_all
  · rename_i h
    rw [Nat.succ_le_iff, Nat.log2_lt h]

/-- The bits above the highest one are gone: shifting by `bitlen - 1` leaves 1. -/
theorem shiftRight_bitlen_pred {v : Nat} (h : v ≠ 0) : v >>> (bitlen v - 1) = 1 := by
  rw [Nat.shiftRight_eq_div_pow]
  have h1 := two_pow_bitlen_le h
  have h2 := lt_two_pow_bitlen v
  have h3 : bitlen v = bitlen v - 1 + 1 := by simp [bitlen, h]
  rw [h3, Nat.pow_succ] at h2
  exact Nat.div_eq_of_lt_le (by omega) (by omega)

/-! ### Exponentiation (41_modexp R95) -/

/-- The loop, started with the power of the bits already consumed, ends with the whole power. -/
theorem powModLoop_eq (b e m : Nat) :
    ∀ (k res : Nat), res = b ^ (e >>> k) % m → powModLoop b e m k res = b ^ e % m := by
  intro k
  induction k with
  | zero => intro res h; simpa [powModLoop] using h
  | succ k ih =>
      intro res h
      apply ih
      have hs : e >>> k = 2 * (e >>> (k + 1)) + (e >>> k) % 2 := by
        rw [Nat.shiftRight_succ]; omega
      have hb : e.testBit k = decide ((e >>> k) % 2 = 1) := by
        simp [Nat.testBit, Nat.and_comm, Nat.and_one_is_mod, bne]
      rw [h, hb, hs]
      generalize e >>> (k + 1) = q
      have e2 : (2 * q + e >>> k % 2) % 2 = e >>> k % 2 := by omega
      rw [e2]
      rcases Nat.mod_two_eq_zero_or_one (e >>> k) with h2 | h2 <;> rw [h2]
      · simp [two_mul, pow_add, Nat.mul_mod]
      · simp [two_mul, pow_add, Nat.mul_mod]

/-- `pow_mod` is the power modulo `m`, but for exponent 0, which gives 1. -/
theorem powMod_eq (b e m : Nat) : powMod b e m = if e = 0 then 1 else b ^ e % m := by
  unfold powMod
  split
  · rfl
  · rename_i h
    apply powModLoop_eq
    rw [shiftRight_bitlen_pred h, pow_one]

/-! ### Prime mode (44_field, 46_curve) -/

/-- `reduce` in prime mode, as an integer. -/
theorem reduce_prime_cast {f : FieldCfg} (h : f.prime = true) (hb : 0 < f.base) (n : Int) :
    ∃ r : Nat, reduce f n = .ok r ∧ (r : Int) = n % f.base ∧ r < f.base := by
  have h0 : 0 ≤ n % (f.base : Int) := Int.emod_nonneg _ (by omega)
  have h1 : n % (f.base : Int) < f.base := Int.emod_lt_of_pos _ (by omega)
  exact ⟨_, reduce_prime h n, Int.toNat_of_nonneg h0, by omega⟩

/-- `f_add` in prime mode (44_field R120). -/
theorem fAdd_prime {f : FieldCfg} (h : f.prime = true) (x y : Int) :
    fAdd f x y = .ok ((x + y) % (f.base : Int)).toNat := by simp [fAdd, reduce_prime h, h]

/-- `f_neg` in prime mode is the residue of the negative (44_field R124). -/
theorem fNeg_prime_cast {f : FieldCfg} (h : f.prime = true) (hb : 0 < f.base) (x : Int) :
    fNeg f x = .ok ((-x) % (f.base : Int)) := by
  rw [fNeg_prime h]
  have h0 : 0 ≤ x % (f.base : Int) := Int.emod_nonneg _ (by omega)
  have h1 : x % (f.base : Int) < f.base := Int.emod_lt_of_pos _ (by omega)
  have e : (-x) % (f.base : Int) = (-(x % (f.base : Int))) % f.base := by
    have := Int.emod_add_mul_ediv x f.base
    conv_lhs => rw [← this, show -(x % f.base + f.base * (x / f.base)) =
      -(x % (f.base : Int)) + f.base * (-(x / f.base)) by ring]
    exact Int.add_mul_emod_self_left _ _ _
  congr 1
  rw [e]
  generalize x % (f.base : Int) = r at h0 h1
  by_cases hz : r = 0
  · simp [hz]
  · rw [if_neg (by omega), Int.toNat_of_nonneg h0, ← Int.add_emod_right,
      Int.emod_eq_of_lt (by omega) (by omega)]
    omega

/-- `on_curve` in prime mode decides the curve equation (46_curve R152). -/
theorem onCurve_prime {c : CurveCfg} (h : c.field.prime = true) (r s : Nat) :
    ∃ f : Bool, onCurve c r s = .ok f ∧ (f = true ↔ OnCurveMod c.field.base c.a c.b r s) := by
  refine ⟨_, by simp [onCurve, reduce_prime h]; rfl, ?_⟩
  unfold OnCurveMod
  have e1 : ((s : Int) * s % c.field.base).toNat = s * s % c.field.base := by
    rw [← Int.toNat_natCast (s * s % c.field.base)]; push_cast; rfl
  have e2 : (((r : Int) * r * r + c.a * r + c.b) % c.field.base).toNat =
      (r ^ 3 + c.a * r + c.b) % c.field.base := by
    rw [← Int.toNat_natCast ((r ^ 3 + c.a * r + c.b) % c.field.base)]
    push_cast
    rw [show (r : Int) ^ 3 = r * r * r by ring]
  simp [e1, e2]

/-! ### The cases of the addition law with infinity (46_curve R156) -/

theorem pAdd_inf_inf {c : CurveCfg} {w : Nat} {p q : PointReg w} (hp : p.inf = true) (hq : q.inf = true) :
    pAdd c p q = .ok pointInf := by simp [pAdd, hp, hq]

theorem pAdd_inf_affine {c : CurveCfg} {w : Nat} {p q : PointReg w} (hp : p.inf = true) (hq : q.inf = false) :
    pAdd c p q = .ok (pointAffine q.r q.s) := by simp [pAdd, hp, hq]

theorem pAdd_affine_inf {c : CurveCfg} {w : Nat} {p q : PointReg w} (hp : p.inf = false) (hq : q.inf = true) :
    pAdd c p q = .ok (pointAffine p.r p.s) := by simp [pAdd, hp, hq]

theorem pAdd_affine {c : CurveCfg} {w : Nat} {p q : PointReg w} (hp : p.inf = false) (hq : q.inf = false) :
    pAdd c p q = addAffine c p q := by simp [pAdd, hp, hq]

end Sys2Proof.Machine
end

