-- ==== Sys2Proof/Tests/Slice0.lean ====
section
/-!
SUPPORT. Tests of one step each, with expected values from spec/95_test_vectors.md and the examples of
the command rules, and for every statement with hypotheses a concrete state that meets them.
-/
namespace Sys2Proof.Tests
open Sys2Proof.Machine

/-! ### Helpers: small states -/

/-- The state with some data registers written. -/
def withX (s : State) : List (RegIdx × Int) → State
  | [] => s
  | (i, v) :: rest => withX (s.writeX i v) rest

/-- The state with some point registers written. -/
def withP (s : State) : List (RegIdx × PointReg) → State
  | [] => s
  | (i, q) :: rest => withP (s.writeP i q) rest

/-- A state with a field and some data registers. -/
def inField (base : Word) (prime : Bool) (rel : Word) (xs : List (RegIdx × Int)) : State :=
  withX { State.reset with fv := true, fp := prime, relv := rel != 0, fbase := base, frel := rel } xs

/-- F_13 (95_test_vectors 2.5). -/
def f13 (xs : List (RegIdx × Int)) : State := inField 13 true 0 xs

/-- The non-prime mode of 95_test_vectors 2.5: `FBASE = 8`, `FREL = 0xB`. -/
def poly8 (xs : List (RegIdx × Int)) : State := inField 8 false 0xB xs

/-- The curve `a = 7, b = 11` over F_13 (95_test_vectors 2.7) with six points: `(4,5)`, `(4,8)`,
`(7,0)`, infinity, `(6,10)` and `(6,3)`; then one stale register of each kind, and `P8` empty. -/
def c13 (xs : List (RegIdx × Int)) : State :=
  withP { f13 xs with cv := true, ca := 7, cb := 11 }
    [(0, ⟨.valid, false, 4, 5⟩), (1, ⟨.valid, false, 4, 8⟩), (2, ⟨.valid, false, 7, 0⟩),
     (3, ⟨.valid, true, 0, 0⟩), (4, ⟨.valid, false, 6, 10⟩), (5, ⟨.valid, false, 6, 3⟩),
     (6, ⟨.staleField, false, 100, 1⟩), (7, ⟨.staleCurve, false, 9, 9⟩)]

/-- The next state of an outcome (the given state where there is none). -/
def nextOr {w : Nat} (s : State w) : Result (State w) → State w
  | .next t => t
  | .fault _ => s
  | .refused _ => s

/-- The state after a command. -/
def after (i : Instr) (s : State) : State := nextOr s (exec i s)

/-- The state after one step with this command word latched. -/
def afterWord (w : Nat) (s : State) : State := nextOr s (step (s.withFetchWord 32 w))

/-- The state after one host operation. -/
def afterHost (op : HostOp) (s : State) : State := nextOr s (step { s with port := [⟨true, op⟩] })

/-! ### Well-formedness (30_encoding R75) -/

theorem test_illFormed_xgcd_ab : (Instr.xgcd 1 1 2 3 4).wellFormed = false := by decide
theorem test_illFormed_xgcd_ac : (Instr.xgcd 0 1 0 3 4).wellFormed = false := by decide
theorem test_illFormed_xgcd_bc : (Instr.xgcd 0 1 1 3 4).wellFormed = false := by decide
theorem test_illFormed_fsqrt : (Instr.fsqrt 0 0 1).wellFormed = false := by decide
theorem test_illFormed_ecget : (Instr.ecget 0 0 1).wellFormed = false := by decide
theorem test_wellFormed_alias : (Instr.xgcd 3 4 2 3 4).wellFormed = true := by decide

/-! ### Decoding: words the spec writes out (30_encoding R77, the command rules, 95_test_vectors) -/

theorem test_decode_nop : decode 0x00000000 = .ok .nop := by decide
theorem test_decode_powmod : decode 0x10716200 = .ok (.powmod 7 1 6 2) := by decide
theorem test_decode_redpoly : decode 0x11ECD000 = .ok (.redpoly 14 12 13) := by decide
theorem test_decode_gcd : decode 0x12534000 = .ok (.gcd 5 3 4) := by decide
theorem test_decode_xgcd : decode 0x13345120 = .ok (.xgcd 3 4 5 1 2) := by decide
theorem test_decode_fldnew : decode 0x200D0000 = .ok (.fldnew 13) := by decide
theorem test_decode_fldnewr : decode 0x21012000 = .ok (.fldnewr 1 2) := by decide
theorem test_decode_fred : decode 0x22840000 = .ok (.fred 8 4) := by decide
theorem test_decode_fadd : decode 0x23556000 = .ok (.fadd 5 5 6) := by decide
theorem test_decode_fmul : decode 0x24A19000 = .ok (.fmul 10 1 9) := by decide
theorem test_decode_fpow : decode 0x25534000 = .ok (.fpow 5 3 4) := by decide
theorem test_decode_fneg : decode 0x26010000 = .ok (.fneg 0 1) := by decide
theorem test_decode_finv : decode 0x27910000 = .ok (.finv 9 1) := by decide
theorem test_decode_fdiv : decode 0x28012000 = .ok (.fdiv 0 1 2) := by decide
theorem test_decode_fsqrt : decode 0x29785000 = .ok (.fsqrt 7 8 5) := by decide
theorem test_decode_fchar : decode 0x2A800000 = .ok (.fchar 8) := by decide
theorem test_decode_ecnew : decode 0x30045000 = .ok (.ecnew 4 5) := by decide
theorem test_decode_ecpoint : decode 0x31138000 = .ok (.ecpoint 1 3 8) := by decide
theorem test_decode_ecchk : decode 0x32037000 = .ok (.ecchk 3 7) := by decide
theorem test_decode_ecinf : decode 0x33400000 = .ok (.ecinf 4) := by decide
theorem test_decode_ecadd : decode 0x34801000 = .ok (.ecadd 8 0 1) := by decide
theorem test_decode_ecneg : decode 0x35500000 = .ok (.ecneg 5 0) := by decide
theorem test_decode_ecmul : decode 0x36206000 = .ok (.ecmul 2 0 6) := by decide
theorem test_decode_ecget : decode 0x37AB1000 = .ok (.ecget 10 11 1) := by decide
theorem test_decode_eceq : decode 0x38023000 = .ok (.eceq 2 3) := by decide

/-- 30_encoding R77: the encoder writes the examples' words. -/
theorem test_encode_examples :
    encode (.powmod 0 1 2 3) = 0x10012300 ∧ encode (.xgcd 0 1 2 3 4) = 0x13012340 ∧
    encode (.fldnew 13) = 0x200D0000 ∧ encode (.ecmul 1 0 5) = 0x36105000 ∧
    encode (.eceq 2 3) = 0x38023000 := by decide

/-- 95_test_vectors 2.1: the illegal words, by the kind of their defect. -/
theorem test_decode_illegal :
    [0x01000000, 0x0F000000, 0x14000000, 0x1F000000, 0x2B000000, 0x2F000000, 0x39000000,
      0xFF000000, 0xFFFFFFFF].all (fun w => decode w == .error .unassignedOpcode) = true ∧
    [0x00000001, 0x00100000, 0x10012301, 0x10012310, 0x11012300, 0x20100000, 0x20001000,
      0x2A010000, 0x33001000, 0x38100000].all
        (fun w => decode w == .error .reservedBitsSet) = true := by decide +kernel

/-- 30_encoding R77, R78: the text form and the pseudo-instruction. -/
theorem test_text : asmText (.xgcd 0 1 2 3 4) = "XGCD x0, x1, x2, x3, x4" ∧
    asmText (.ecmul 1 0 5) = "ECMUL p1, p0, x5" ∧ asmText .nop = "NOP" := by decide +kernel
theorem test_ecdbl : encode (ecdbl 4 0) = 0x34400000 := by decide

/-! ### Steps and the host port (95_test_vectors 2.1, 2.8) -/

theorem test_step_illegal : (afterWord 1 .reset).statusWord = 0x00000A00 := by decide
theorem test_step_illegal_keeps_flags :
    (afterWord 1 { c13 [] with flag := true }).statusWord = 0x00000ACC := by decide
theorem test_step_xgcd_zero : (afterWord 0x13012340 .reset).readX 2 = 1 := by decide
theorem test_step_equal_destinations :
    ∀ w ∈ [0x13112340, 0x13011340, 0x13010340, 0x29001000, 0x37001000],
      (afterWord w .reset).statusWord = 0x00000A00 := by decide
theorem test_table_word : decodeTableWord 32 0x2A000000 = some (.fchar 0) := by decide
theorem test_host_write_negative : (afterHost (.writeX 5 true 7) .reset).readX 5 = -7 := by decide
theorem test_host_no_negative_zero :
    (afterHost (.writeX 5 true 0) .reset).x[5] = ⟨false, 0⟩ := by decide
theorem test_host_read : (afterHost (.readX 5) (withX .reset [(5, -7)])).reply =
    .dataReg true 7 := by decide
theorem test_host_ctrl : (afterHost (.writeCTRL 0xFFFFFFFF) .reset).ctrlWord = 1 ∧
    (afterHost (.writeCTRL 0xFFFFFFFE) .reset).ctrlWord = 0 := by decide
theorem test_host_reserved_csr : (afterHost (.readCSR 15) (c13 [])).reply = .csr 0 := by decide
theorem test_host_issue : (afterHost (.issue 0x12) .reset).statusWord = 1 := by decide
theorem test_host_busy_status :
    (afterHost (.readCSR 0) { f13 [] with phase := .busy }).reply = .csr 0x0D := by decide
theorem test_host_busy_write :
    (afterHost (.writeX 0 false 1) { f13 [] with phase := .busy }).readX 0 = 0 := by decide
theorem test_host_fatal_issue :
    afterHost (.issue 0) { poly8 [] with phase := .fatal, fcause := 1 } =
      { poly8 [] with phase := .fatal, fcause := 1, reply := .notAccepted } := by decide
theorem test_host_fatal_reset :
    afterHost .reset { poly8 [] with phase := .fatal, fcause := 1 } =
      { State.reset with reply := .done } := by decide

/-! ### System and leaf commands (95_test_vectors 2.2 to 2.4) -/

theorem test_nop : (after .nop { f13 [] with err := 4 }).statusWord = 0x0C := by decide
theorem test_powmod : (after (.powmod 0 1 2 3) (withX .reset [(1, 3), (2, 13), (3, 7)])).readX 0 = 3 := by
  decide
theorem test_powmod_wide :
    (after (.powmod 0 1 2 3) (withX .reset [(1, 2 ^ 127 + 12345), (2, 2 ^ 100 + 77),
      (3, 2 ^ 128 - 159)])).readX 0 = 0x8E0CDF44AD443B0A5E2C460DBA670675 := by decide +kernel
theorem test_redpoly : (after (.redpoly 0 1 2) (withX .reset [(1, 0x100001), (2, 0x1053)])).readX 0 =
    0x21E := by decide
theorem test_redpoly_wide : (after (.redpoly 0 1 2)
    (withX .reset [(1, 2 ^ 127 + 1), (2, 2 ^ 64 + 0x87)])).readX 0 = 0x8000000000002048 := by
  decide +kernel
theorem test_gcd : (after (.gcd 5 3 4) (withX .reset [(3, 977), (4, 313)])).readX 5 = 1 := by decide
theorem test_xgcd_order :
    let s := after (.xgcd 0 1 2 3 4) (withX .reset [(3, 46), (4, 240)])
    (s.readX 0, s.readX 1, s.readX 2) = (2, 47, -9) := by decide
theorem test_xgcd_alias :
    let s := after (.xgcd 3 4 2 3 4) (withX .reset [(3, 3), (4, 8)])
    (s.readX 3, s.readX 4, s.readX 2) = (1, 3, -1) := by decide

/-- 00_scope R8: the width is an argument; at width 9 the largest value is 511, and 512 does not fit. -/
theorem test_width :
    let s := ((State.resetAt 9).writeX 1 511).writeX 2 7
    (nextOr s (execGcd 0 1 2 s)).readX 0 = 7 ∧ s.readX 1 = 511 ∧
    commitX s 0 512 = .error (.raised .resultRange) := by decide

/-! ### Field commands (95_test_vectors 2.5) -/

theorem test_fldnew : (after (.fldnew 1) (withX .reset [(1, 977)])).statusWord = 0x0C := by decide
theorem test_fldnew_stales : ((after (.fldnew 15) (c13 [(15, 17)])).readP 0).tag = .staleField ∧
    (after (.fldnew 15) (c13 [(15, 17)])).statusWord = 0x0C := by decide +kernel
theorem test_fldnewr : (after (.fldnewr 1 2) (withX .reset [(1, 12), (2, 0xB)])).statusWord =
    0x14 := by decide
theorem test_fldnewr_refused : ∀ v ∈ [((8, 0), 0x100#32), ((8, -1), 0xB00), ((1, 0xB), 0x100)],
    (after (.fldnewr 1 2) (withX .reset [(1, v.1.1), (2, v.1.2)])).statusWord = v.2 := by decide
theorem test_fred : (after (.fred 0 1) (f13 [(1, -14)])).readX 0 = 12 := by decide
theorem test_fred_fatal : (after (.fred 0 1) (poly8 [(1, -1)])).statusWord = 0x00010016 := by decide
theorem test_fadd : (after (.fadd 0 1 2) (f13 [(1, -1), (2, -1)])).readX 0 = 11 := by decide
theorem test_fadd_poly : (after (.fadd 0 1 2) (poly8 [(1, 15), (2, 1)])).readX 0 = 5 := by decide
theorem test_fmul : (after (.fmul 0 1 2) (f13 [(1, 2 ^ 128 - 1), (2, 2 ^ 128 - 1)])).readX 0 = 12 := by
  decide +kernel
theorem test_fmul_poly : (after (.fmul 0 1 2) (poly8 [(1, 3), (2, 3)])).readX 0 = 2 := by decide
theorem test_fpow : (after (.fpow 0 1 2) (f13 [(1, 15), (2, 1)])).readX 0 = 2 := by decide
theorem test_fpow_poly : (after (.fpow 0 1 2) (poly8 [(1, 3), (2, 2)])).readX 0 = 1 := by decide
theorem test_fneg : (after (.fneg 0 1) (f13 [(1, 26)])).readX 0 = 0 := by decide
theorem test_fneg_poly : (after (.fneg 0 1) (poly8 [(1, 8)])).readX 0 = 5 := by decide
theorem test_finv : (after (.finv 0 1) (f13 [(1, -3)])).readX 0 = 4 := by decide
theorem test_finv_poly : (after (.finv 0 1) (poly8 [(1, 7)])).statusWord = 0x00010016 := by decide
theorem test_fdiv : (after (.fdiv 0 1 2) (f13 [(1, -1), (2, 2)])).readX 0 = 6 := by decide
theorem test_fdiv_by_zero : (after (.fdiv 0 1 2) (f13 [(1, 5), (2, 13)])).statusWord = 0x50C := by
  decide
theorem test_fchar : (after (.fchar 0) (poly8 [])).statusWord = 0x34 := by decide
theorem test_fchar_degenerate : (after (.fchar 0) (inField 8 false 1 [])).readX 0 = 1 := by decide
theorem test_fsqrt :
    let s := after (.fsqrt 0 1 2) (inField 977 true 0 [(2, 269)])
    (s.readX 0, s.readX 1) = (313, 664) := by decide
/-- 45_sqrt R142 (e). -/
theorem test_fsqrt_f13 :
    let s := after (.fsqrt 0 1 2) (f13 [(2, 3)])
    (s.readX 0, s.readX 1) = (9, 4) := by decide
theorem test_fsqrt_order :
    (after (.fsqrt 0 1 2) (inField 41 true 0 [(2, 23)])).readX 0 = 33 ∧
    (after (.fsqrt 0 1 2) (inField 17 true 0 [(2, 13)])).readX 0 = 8 ∧
    (after (.fsqrt 0 1 2) (inField 7 true 0 [(2, 2)])).readX 0 = 4 ∧
    (after (.fsqrt 0 1 2) (inField 3 true 0 [(2, 1)])).readX 0 = 1 := by decide

/-! ### Curve commands (95_test_vectors 2.7) -/

theorem test_ecnew : (after (.ecnew 1 2) (f13 [(1, 20), (2, 24)])).statusWord = 0x4C ∧
    (after (.ecnew 1 2) (f13 [(1, 20), (2, 24)])).ca = 7 := by decide
theorem test_ecnew_singular : (after (.ecnew 1 2) (f13 [(1, -3), (2, 2)])).statusWord = 0x20C := by
  decide
theorem test_ecpoint : (after (.ecpoint 9 1 2) (c13 [(1, 17), (2, 18)])).readP 9 =
    ⟨.valid, false, 4, 5⟩ := by decide
theorem test_ecpoint_off : (after (.ecpoint 9 1 2) (c13 [(1, 4), (2, 6)])).statusWord = 0x34C := by
  decide
theorem test_ecchk : (after (.ecchk 1 2) (c13 [(1, 4), (2, 5)])).statusWord = 0xCC := by decide
theorem test_ecchk_off : (after (.ecchk 1 2) (c13 [(1, 0), (2, 0)])).statusWord = 0x4C := by decide
theorem test_ecinf : (after (.ecinf 7) (c13 [])).readP 7 = ⟨.valid, true, 0, 0⟩ := by decide
theorem test_ecadd_chord : (after (.ecadd 9 5 0) (c13 [])).readP 9 = ⟨.valid, false, 4, 8⟩ := by decide
theorem test_ecadd_tangent_and_inverse : (after (.ecadd 0 0 0) (c13 [])).readP 0 =
    ⟨.valid, false, 6, 10⟩ ∧ (after (.ecadd 9 2 2) (c13 [])).readP 9 = ⟨.valid, true, 0, 0⟩ := by decide
theorem test_ecneg : (after (.ecneg 9 0) (c13 [])).readP 9 = ⟨.valid, false, 4, 8⟩ := by decide
theorem test_ecneg_two_torsion : (after (.ecneg 9 2) (c13 [])).readP 9 = ⟨.valid, false, 7, 0⟩ := by
  decide
theorem test_ecmul : (after (.ecmul 9 0 1) (c13 [(1, 7)])).readP 9 = ⟨.valid, false, 6, 10⟩ := by decide
theorem test_ecmul_wide : (after (.ecmul 9 0 1) (c13 [(1, 2 ^ 128 - 1)])).readP 9 =
    ⟨.valid, true, 0, 0⟩ := by decide +kernel
theorem test_ecget : (after (.ecget 8 9 3) (c13 [(8, 1), (9, 1)])).statusWord = 0xCC ∧
    (after (.ecget 8 9 0) (c13 [])).readX 9 = 5 := by decide
theorem test_eceq : (after (.eceq 0 1) (c13 [])).flag = false ∧ (after (.eceq 0 0) (c13 [])).flag = true := by
  decide
theorem test_tags : (after (.ecadd 9 7 8) (c13 [])).err = 8 ∧ (after (.ecadd 9 8 7) (c13 [])).err = 13 ∧
    (after (.ecneg 9 6) (c13 [])).err = 7 ∧ (after (.ecmul 9 8 0) (c13 [])).err = 13 := by decide


/-! ### Witnesses: concrete states that meet the hypotheses of each statement -/

/-- A state with a command in flight. -/
def inFlight (w : CmdWord) (s : State) : State := { s with cmd := w, phase := .busy }

/-- A state with one host operation to come, before the completion of a command in flight. -/
def withHost (op : HostOp) (s : State) : State := { s with port := [⟨true, op⟩] }

theorem hostTurn_withHost (op : HostOp) (s : State) : HostTurn (withHost op s) op [] :=
  ⟨true, rfl, fun _ => rfl⟩

theorem sequencerTurn_inFlight (w : CmdWord) (s : State) (h : s.port = []) :
    SequencerTurn (inFlight w s) :=
  ⟨rfl, fun q rest hp => by simp [inFlight, h] at hp⟩

/-- Every command answers a next state, the one `after` names. -/
theorem exec_after (i : Instr) (s : State) : exec i s = .next (after i s) := by cases i <;> rfl

/-- `EncodeOfDecode` and `DecodeFollowsTheTable`: a legal word, and a row that it fits; the word 1 of
`witness_illegalWord` fits none. -/
theorem witness_rows : decode 0 = .ok .nop ∧
    ∃ r ∈ opcodeRows, (0 : CmdWord) &&& r.mask = r.pattern :=
  ⟨by decide, leafRows[0], by simp [opcodeRows, leafRows], by decide⟩

/-- `EqualDestinationsAreIllegal`. -/
theorem witness_equalDestinations : (Instr.fsqrt 15 15 1).wellFormed = false := by decide

/-- `IllegalWordIsATypedError`. -/
theorem witness_illegalWord : SequencerTurn (inFlight 1 .reset) ∧
    ∀ r ∈ opcodeRows, (inFlight 1 .reset).cmd &&& r.mask ≠ r.pattern :=
  ⟨sequencerTurn_inFlight _ _ rfl, by
    have h : opcodeRows.all (fun r => (1#32 &&& r.mask) != r.pattern) = true := by decide +kernel
    intro r hr
    have := List.all_eq_true.mp h r hr
    intro e
    rw [show 1#32 &&& r.mask = r.pattern from e] at this
    simp at this⟩

/-- `StepRunsTheLatchedCommand`. -/
theorem witness_step : SequencerTurn (inFlight 0x200D0000 .reset) ∧
    decode (inFlight 0x200D0000 .reset).cmd = .ok (.fldnew 13) :=
  ⟨sequencerTurn_inFlight _ _ rfl, by decide⟩

/-- `IssueThenCommand`: an operation that comes after the completion may follow. (The word 1 of
`witness_illegalWord` fits no row.) -/
theorem witness_issue :
    let s := { State.reset with port := [⟨true, .issue 0⟩, ⟨false, .readCSR 0⟩] }
    s.phase = .idle ∧ HostTurn s (.issue 0) [⟨false, .readCSR 0⟩] ∧
    (∀ q tail, [(⟨false, .readCSR 0⟩ : Request)] = q :: tail → q.early = false) ∧
    decode 0 = .ok .nop :=
  ⟨rfl, ⟨true, rfl, fun _ => rfl⟩, by rintro q tail h; cases h; rfl, by decide⟩

/-- `HostResetFromEveryState`, in each of the three states. -/
theorem witness_hostReset : HostTurn (withHost .reset (f13 [])) .reset [] ∧
    HostTurn (withHost .reset (inFlight 0 .reset)) .reset [] ∧
    HostTurn (withHost .reset { poly8 [] with phase := .fatal, fcause := 1 }) .reset [] :=
  ⟨hostTurn_withHost _ _, hostTurn_withHost _ _, hostTurn_withHost _ _⟩

/-- `HostDataRegisterAccess`: a write and a read, the read of zero and of a negative value. -/
theorem witness_hostX :
    (withHost (.writeX 0 true 0) State.reset).phase = .idle ∧
    HostTurn (withHost (.writeX 0 true 0) State.reset) (.writeX 0 true 0) [] ∧
    (withHost (.readX 0) State.reset).phase ≠ .busy ∧
    HostTurn (withHost (.readX 0) State.reset) (.readX 0) [] ∧
    (withHost (.readX 0) State.reset).x[0] = ⟨true && (0 : Word) != 0, 0⟩ ∧
    (withHost (.readX 15) (withX .reset [(15, -7)])).x[15] = ⟨true && (7 : Word) != 0, 7⟩ :=
  ⟨rfl, hostTurn_withHost _ _, by decide, hostTurn_withHost _ _, by decide, by decide⟩

/-- `HostPointAndCsrReads`: a point register, and CSRs at the ends of the ranges. -/
theorem witness_hostReads : (withHost (.readP 0) (c13 [])).phase ≠ .busy ∧
    HostTurn (withHost (.readP 0) (c13 [])) (.readP 0) [] ∧
    HostTurn (withHost (.readCSR 6) (c13 [])) (.readCSR 6) [] ∧
    HostTurn (withHost (.readCSR 7) (c13 [])) (.readCSR 7) [] ∧
    HostTurn (withHost (.readCSR 15) (c13 [])) (.readCSR 15) [] :=
  ⟨by decide, hostTurn_withHost _ _, hostTurn_withHost _ _, hostTurn_withHost _ _,
    hostTurn_withHost _ _⟩

/-- `BusyHostAccess`: a read of `STATUS`, and an operation that is neither that nor a reset. -/
theorem witness_busy : (withHost (.readCSR 0) (inFlight 0 .reset)).phase = .busy ∧
    HostTurn (withHost (.readCSR 0) (inFlight 0 .reset)) (.readCSR 0) [] ∧
    HostTurn (withHost (.readCSR 1) (inFlight 0 .reset)) (.readCSR 1) [] ∧
    (.readCSR 1 : HostOp) ≠ .readCSR 0 ∧ (.readCSR 1 : HostOp) ≠ .reset :=
  ⟨rfl, hostTurn_withHost _ _, hostTurn_withHost _ _, by decide, by decide⟩

/-- The fatal state of the tests below. -/
def fatalState : State := { poly8 [] with phase := .fatal, fcause := 1 }

/-- `FatalStateIsFrozen`: no operation, one that is accepted, one that is not, and the reset. -/
theorem witness_fatal : fatalState.phase = .fatal ∧ fatalState.port = [] ∧
    HostTurn (withHost (.readX 0) fatalState) (.readX 0) [] ∧ (.readX 0 : HostOp) ≠ .reset ∧
    HostTurn (withHost (.issue 0) fatalState) (.issue 0) [] ∧ (.issue 0 : HostOp) ≠ .reset ∧
    HostTurn (withHost .reset fatalState) .reset [] :=
  ⟨rfl, rfl, hostTurn_withHost _ _, by decide, hostTurn_withHost _ _, by decide,
    hostTurn_withHost _ _⟩

/-- `VerboseHasNoEffect`: a write of `CTRL`, and a command. -/
theorem witness_verbose : (withHost (.writeCTRL 1) State.reset).phase = .idle ∧
    HostTurn (withHost (.writeCTRL 1) State.reset) (.writeCTRL 1) [] ∧
    exec .nop .reset = .next State.reset :=
  ⟨rfl, hostTurn_withHost _ _, rfl⟩

/-- `CommandLatchIsUnobservable`: outside `BUSY`, a step that makes the block `BUSY`. -/
theorem witness_latch : (withHost (.issue 0) State.reset).phase ≠ .busy ∧
    step (withHost (.issue 0) State.reset) =
      .next { State.reset with phase := .busy, reply := .done } := ⟨by decide, rfl⟩

/-- `BusyAlwaysEnds`: a command in flight with two operations to come first. -/
theorem witness_busyEnds :
    { inFlight 0 .reset with port := [⟨true, .readCSR 0⟩, ⟨true, .readX 0⟩] }.phase = .busy := rfl

/-- `CommandFrame`: a command with a destination of each kind. -/
theorem witness_frame :
    exec (.gcd 0 1 2) (withX .reset [(1, 4), (2, 6)]) =
      .next (after (.gcd 0 1 2) (withX .reset [(1, 4), (2, 6)])) ∧
    (3 : RegIdx) ∉ xDests (.gcd 0 1 2) ∧ (3 : RegIdx) ∉ pDests (.ecinf 0) :=
  ⟨exec_after _ _, by decide, by decide⟩

/-- `FlagIsOnlyWritten`: `FLAG` changes. -/
theorem witness_flag :
    exec (.ecchk 1 2) (c13 [(1, 4), (2, 5)]) = .next (after (.ecchk 1 2) (c13 [(1, 4), (2, 5)])) ∧
    (after (.ecchk 1 2) (c13 [(1, 4), (2, 5)])).flag ≠ (c13 [(1, 4), (2, 5)]).flag :=
  ⟨exec_after _ _, by decide⟩

/-- `OperandSignsAreChecked`: phase 5 with a modulus of 0, and with a negative operand. -/
theorem witness_operands :
    reachesOperandPhase (.powmod 0 1 2 3) State.reset ∧
    refusesOperands (.powmod 0 1 2 3) State.reset ∧
    reachesOperandPhase (.fsqrt 0 1 2) (f13 [(2, -1)]) ∧
    refusesOperands (.fsqrt 0 1 2) (f13 [(2, -1)]) := by
  refine ⟨⟨rfl, by simp [needsField], by simp [needsCurve], by simp⟩, ?_, ⟨rfl, ?_, ?_, ?_⟩, ?_⟩
  · exact .inr (.inr (by decide))
  · exact fun _ => by decide
  · simp [needsCurve]
  · intro a b c _; decide
  · show (f13 [(2, -1)]).readX 2 < 0
    decide

/-- `CommandsNeedTheirObjects`. -/
theorem witness_objects : (Instr.fred 0 1).wellFormed = true ∧ needsField (.fred 0 1) = true ∧
    State.reset.fv = false ∧ (Instr.ecinf 0).wellFormed = true ∧ needsCurve (.ecinf 0) = true ∧
    (f13 []).cv = false := by decide

/-- `UnsupportedFieldIsRefused`: non-prime mode, and base 2. -/
theorem witness_unsupported : (poly8 []).fv = true ∧ (poly8 []).fp = false ∧
    (inField 2 true 0 []).fv = true ∧ (inField 2 true 0 []).fbase = 2 ∧ (0 : RegIdx) ≠ 1 := by decide

/-- `StalePointsAreRefused`: each tag, in the first and in the second source. -/
theorem witness_stale : (Instr.ecadd 9 0 8).wellFormed = true ∧ (c13 []).cv = true ∧
    pSources (.ecadd 9 0 8) = [0] ++ 8 :: [] ∧ (∀ k ∈ ([0] : List RegIdx), (c13 []).p[k].tag = .valid) ∧
    (c13 []).p[8].tag = .empty ∧
    pSources (.ecneg 9 6) = [] ++ 6 :: [] ∧ (c13 []).p[6].tag = .staleField ∧
    pSources (.ecadd 9 7 8) = [] ++ 7 :: [8] ∧ (c13 []).p[7].tag = .staleCurve := by decide

/-! ### Witnesses of the invariant -/

/-- A curve state with points, whose data registers hold a point on the curve and one off it, scalars,
and the ends of the range. -/
def curveState : State :=
  c13 [(0, 4), (1, 5), (2, 6), (3, 2), (4, 4), (5, 0), (6, -1), (7, 2 ^ 128 - 1), (8, 1)]

theorem curveState_inv : Inv curveState where
  noNegativeZero := by decide +kernel
  curveNeedsPrimeField := by decide
  noFieldIsCleared := by decide
  baseAtLeastTwo := by decide
  primeFlagExact := fun _ => ⟨fun _ => (by norm_num : Nat.Prime 13), fun _ => rfl⟩
  nonPrimeHasRelation := by decide
  cacheIsOneOrTwo := by decide
  noCurveIsCleared := by decide
  curveIsRegular := by decide
  causeExactlyInFatal := by decide
  infinityIsZero := by decide +kernel
  emptyIsZero := by decide +kernel
  validIsOnCurve := by unfold OnCurveMod; decide +kernel
  errorCodeKnown := by decide
  causeIsAtMostOne := by decide

/-- A non-prime field, with the characteristic cached. -/
def polyState : State := { poly8 [(0, -1), (1, 3), (2, 7)] with chv := true, fchr := 2 }

theorem polyState_inv : Inv polyState where
  noNegativeZero := by decide +kernel
  curveNeedsPrimeField := by decide
  noFieldIsCleared := by decide
  baseAtLeastTwo := by decide
  primeFlagExact := fun _ =>
    ⟨fun h => absurd h (by decide), fun h => absurd h (by norm_num : ¬ Nat.Prime 8)⟩
  nonPrimeHasRelation := by decide
  cacheIsOneOrTwo := by decide
  noCurveIsCleared := by decide +kernel
  curveIsRegular := by decide
  causeExactlyInFatal := by decide
  infinityIsZero := by decide +kernel
  emptyIsZero := by decide +kernel
  validIsOnCurve := by unfold OnCurveMod; decide +kernel
  errorCodeKnown := by decide
  causeIsAtMostOne := by decide

/-- `EveryStepKeepsTheInvariant` and `ResultRangeNeverOccurs`: a state of the invariant that steps. -/
theorem witness_invariant : Inv curveState ∧ step curveState = .next curveState :=
  ⟨curveState_inv, rfl⟩

/-- `CommandsRaiseOnlyListedErrors`: a typed error and a fatal end. -/
theorem witness_raises : Inv curveState ∧
    exec (.ecmul 9 0 5) curveState = .next (afterError curveState TypedError.invalidScalar.code) ∧
    Inv polyState ∧
    exec (.fred 0 0) polyState =
      .next (afterFatal polyState FatalCause.negativeNonPrimeReduce.code) := by
  refine ⟨curveState_inv, ?_, polyState_inv, ?_⟩
  · rw [exec_after]
    exact congrArg _ (by decide +kernel)
  · rw [exec_after]
    exact congrArg _ (by decide +kernel)

/-! ### Witnesses of the commands' operands -/

/-- `DataRegisterRoundTrip`: the ends of the range, and zero. -/
theorem witness_dataReg : (2 ^ 128 - 1 : Int).natAbs < 2 ^ Config.W ∧
    (-(2 ^ 128 - 1) : Int).natAbs < 2 ^ Config.W ∧
    ¬((⟨false, 0⟩ : SignMag).neg = true ∧ (⟨false, 0⟩ : SignMag).mag = 0) := by decide

/-- `PowmodWritesThePower`, `RedpolyWritesTheRemainder`, `GcdWritesTheDivisor`, `XgcdWritesTheTriple`:
operands at 0 where 0 is admitted, and above. -/
theorem witness_leaves : let s := withX .reset [(1, 3), (2, 5), (3, 1)]
    (0 ≤ s.readX 0 ∧ 0 ≤ s.readX 0 ∧ 0 < s.readX 3) ∧ (0 ≤ s.readX 1 ∧ 0 ≤ s.readX 2 ∧ 0 < s.readX 2) ∧
    (0 : RegIdx) ≠ 1 ∧ (0 : RegIdx) ≠ 2 ∧ (1 : RegIdx) ≠ 2 := by decide

/-- `FieldConstruction`: below 2, a prime, a size without a default relation, and 8, whose entry in
`DEFREL` is open (log entry 2). -/
theorem witness_fldnew : let s := withX .reset [(1, 1), (2, 13), (3, 12), (4, 8)]
    s.readX 1 < 2 ∧ (s.readX 2 = (13 : Nat) ∧ Nat.Prime 13) ∧
    (s.readX 3 = (12 : Nat) ∧ 2 ≤ 12 ∧ ¬ Nat.Prime 12 ∧ Config.defRel 12 = none) ∧
    (s.readX 4 = (8 : Nat) ∧ 2 ≤ 8 ∧ ¬ Nat.Prime 8) :=
  ⟨by decide, ⟨by decide, by norm_num⟩, ⟨by decide, by decide, by norm_num, rfl⟩,
    ⟨by decide, by decide, by norm_num⟩⟩

/-- `FieldConstructionWithRelation`: each clause. -/
theorem witness_fldnewr : let s := withX .reset [(1, 1), (2, 13), (3, -1), (4, 8), (5, 11)]
    s.readX 3 < 0 ∧ (0 ≤ s.readX 0 ∧ s.readX 1 < 2) ∧
    (s.readX 2 = (13 : Nat) ∧ s.readX 0 = (0 : Nat) ∧ 2 ≤ 13 ∧ Nat.Prime 13) ∧
    (s.readX 4 = (8 : Nat) ∧ s.readX 5 = (11 : Nat) ∧ 2 ≤ 8 ∧ ¬ Nat.Prime 8 ∧ 11 ≠ 0) ∧
    (s.readX 4 = (8 : Nat) ∧ s.readX 0 = (0 : Nat) ∧ 2 ≤ 8 ∧ ¬ Nat.Prime 8) := by
  norm_num
  decide

/-- The statements of prime mode: `PrimeFieldRingCommands`, `FpowWritesThePower`,
`FinvWritesTheInverse`, `FdivWritesTheQuotient` and `FcharWritesTheCharacteristic`. -/
theorem witness_primeMode : let s := f13 [(1, 13), (2, 3)]
    s.fv = true ∧ s.fp = true ∧ 0 < s.fbase.toNat ∧ s.fbase.toNat.Prime ∧
    0 ≤ s.readX 0 ∧ 0 ≤ s.readX 1 ∧
    s.readX 1 % s.fbase.toNat = 0 ∧ s.readX 2 % s.fbase.toNat ≠ 0 :=
  ⟨rfl, rfl, by decide, (by norm_num : Nat.Prime 13), by decide, by decide, by decide, by decide⟩

/-- `NonPrimeRingCommands` and `FcharWritesTheCharacteristic`: each clause of non-prime mode. -/
theorem witness_nonPrimeMode : let s := poly8 [(1, -1), (2, 3)]
    s.fv = true ∧ s.fp = false ∧ s.frel ≠ 0 ∧ s.readX 1 < 0 ∧ 0 ≤ s.readX 2 ∧ 0 ≤ s.readX 0 ∧
    s.readX 1 * s.readX 2 < 0 ∧ 0 ≤ s.readX 2 * s.readX 2 ∧ s.chv = false ∧ polyState.chv = true := by
  decide

/-- `NonPrimeInverseCommands`: a negative operand, a zero residue, a negative coefficient, a coefficient
that is not negative. -/
theorem witness_nonPrimeInverse : let s := poly8 [(1, -1), (2, 3), (3, 7)]
    (s.fv = true ∧ s.fp = false ∧ s.frel ≠ 0 ∧ s.readX 1 < 0) ∧
    (0 ≤ s.readX 0 ∧ IsPolyRemainder (s.readX 0).toNat s.frel.toNat 0) ∧
    (IsPolyRemainder (s.readX 3).toNat s.frel.toNat 7 ∧ (egcd 7 s.fbase.toNat).2.1 = -1) ∧
    (IsPolyRemainder (s.readX 2).toNat s.frel.toNat 3 ∧ (egcd 3 s.fbase.toNat).2.1 = 3 ∧
      s.readX 1 * (3 : Nat) < 0 ∧ IsPolyRemainder (3 : Int).toNat s.frel.toNat 3) := by
  refine ⟨by decide, ⟨by decide, ⟨0, by decide⟩, by decide⟩, ⟨⟨⟨0, by decide⟩, by decide⟩, by decide⟩,
    ⟨⟨0, by decide⟩, by decide⟩, by decide, by decide, ⟨0, by decide⟩, by decide⟩

/-- `FsqrtWritesBothRoots`: a square, a number that is none, and 0. -/
theorem witness_fsqrt : let s := f13 [(2, 3), (3, 2)]
    (0 : RegIdx) ≠ 1 ∧ s.fv = true ∧ s.fp = true ∧ s.fbase.toNat.Prime ∧ s.fbase ≠ 2 ∧
    0 ≤ s.readX 2 ∧ s.readX 2 % s.fbase.toNat ≠ 0 ∧
    ((4 * 4 : Nat) : Int) % s.fbase.toNat = s.readX 2 % s.fbase.toNat ∧
    s.readX 0 % s.fbase.toNat = 0 ∧ 0 ≤ s.readX 3 ∧
    ¬∃ y : Nat, ((y * y : Nat) : Int) % s.fbase.toNat = s.readX 3 % s.fbase.toNat := by
  refine ⟨by decide, rfl, rfl, (by norm_num : Nat.Prime 13), by decide, by decide, by decide,
    by decide, by decide, by decide, ?_⟩
  rintro ⟨y, h⟩
  have h' : y * y % 13 = 2 := by
    have : ((y * y : Nat) : Int) % (13 : Nat) = (2 : Nat) := h
    exact_mod_cast this
  have hy : y % 13 < 13 := Nat.mod_lt _ (by decide)
  rw [Nat.mul_mod] at h'
  revert h'
  interval_cases y % 13 <;> decide

/-! ### Witnesses of the curve statements -/

/-- `CurveConstruction`: a singular pair and a regular one. -/
theorem witness_ecnew : let s := f13 [(1, -3), (2, 2), (3, 20), (4, 24)]
    s.fv = true ∧ s.fp = true ∧ 0 < s.fbase.toNat ∧
    ((10 : Nat) : Int) = s.readX 1 % s.fbase.toNat ∧ ((2 : Nat) : Int) = s.readX 2 % s.fbase.toNat ∧
    (4 * 10 ^ 3 + 27 * 2 ^ 2) % s.fbase.toNat = 0 ∧
    ((7 : Nat) : Int) = s.readX 3 % s.fbase.toNat ∧ ((11 : Nat) : Int) = s.readX 4 % s.fbase.toNat ∧
    (4 * 7 ^ 3 + 27 * 11 ^ 2) % s.fbase.toNat ≠ 0 := by decide

/-- `PointValidation` and `EcinfWritesInfinity`: a pair on the curve and one off it. -/
theorem witness_ecpoint : let s := curveState
    s.cv = true ∧ s.fp = true ∧ 0 < s.fbase.toNat ∧ 0 ≤ s.readX 0 ∧ 0 ≤ s.readX 1 ∧ 0 ≤ s.readX 2 ∧
    ((4 : Nat) : Int) = s.readX 0 % s.fbase.toNat ∧ ((5 : Nat) : Int) = s.readX 1 % s.fbase.toNat ∧
    ((6 : Nat) : Int) = s.readX 2 % s.fbase.toNat ∧
    OnCurveMod s.fbase.toNat s.ca.toNat s.cb.toNat 4 5 ∧
    ¬ OnCurveMod s.fbase.toNat s.ca.toNat s.cb.toNat 4 6 := by
  unfold OnCurveMod
  decide

/-- `EcaddFollowsTheCases`: infinity in either place, a chord, a tangent, an inverse pair, a point of
order 2, and two points with one first coordinate that are on no common curve. -/
theorem witness_ecadd : let s := curveState.writeP 9 ⟨.valid, false, 4, 1⟩
    s.cv = true ∧ s.fp = true ∧ Nat.Prime 13 ∧ s.fbase.toNat = 13 ∧
    (∀ i ∈ ([0, 1, 2, 3, 5, 9] : List RegIdx),
      s.p[i].tag = .valid ∧ s.p[i].r.toNat < 13 ∧ s.p[i].s.toNat < 13) ∧
    s.p[3].inf = true ∧ s.p[0].inf = false ∧ s.p[5].inf = false ∧
    s.p[0].r.toNat ≠ s.p[5].r.toNat ∧
    (s.p[0].s.toNat + s.p[0].s.toNat) % 13 ≠ 0 ∧
    (s.p[0].r.toNat = s.p[1].r.toNat ∧ (s.p[0].s.toNat + s.p[1].s.toNat) % 13 = 0) ∧
    (s.p[2].s.toNat + s.p[2].s.toNat) % 13 = 0 ∧
    (s.p[0].r.toNat = s.p[9].r.toNat ∧ s.p[0].s.toNat ≠ s.p[9].s.toNat ∧
      (s.p[0].s.toNat + s.p[9].s.toNat) % 13 ≠ 0) :=
  ⟨rfl, rfl, by norm_num, rfl, by decide, by decide, by decide, by decide, by decide, by decide,
    by decide, by decide, by decide⟩

/-- `PointCommandsStayOnTheCurve`, `EcnegNegatesThePoint`, `PointPlusNegativeIsInfinity`,
`ScalarTwoAndFour`, `EcmulIsTheScalarMultiple`, `ScalarBelowOneIsRefused`, `PointReadoutAndEquality`: valid points, infinity among
them, and scalars 0, 1, 2, 4 and the largest. -/
theorem witness_points : Inv curveState ∧ curveState.cv = true ∧ curveState.fp = true ∧
    0 < curveState.fbase.toNat ∧
    curveState.p[0].tag = .valid ∧ curveState.p[3].tag = .valid ∧ curveState.p[3].inf = true ∧
    curveState.p[0].inf = false ∧ (1 : RegIdx) ≠ 0 ∧
    1 ≤ curveState.readX 8 ∧ 1 ≤ curveState.readX 7 ∧ curveState.readX 5 < 1 ∧
    curveState.readX 3 = 2 ∧ curveState.readX 4 = 4 ∧
    curveState.readX 4 = 2 * curveState.readX 3 ∧ curveState.readX 1 = 2 * curveState.readX 3 + 1 :=
  ⟨curveState_inv, by decide⟩

theorem nonsingular_4_5 :
    WeierstrassCurve.Affine.Nonsingular (R := ZMod 13) ⟨0, 0, 0, 7, 11⟩ 4 5 := by
  rw [WeierstrassCurve.Affine.nonsingular_iff, WeierstrassCurve.Affine.equation_iff]
  decide

/-- The curve of `curveState` has a point with these coordinates. -/
theorem curveState_nonsingular : (curveOf curveState).Nonsingular 4 5 := nonsingular_4_5

/-- `EcaddIsTheGroupLaw` and `EcmulIsTheScalarMultiple`: a prime field, and registers that stand for an
affine point and for infinity. -/
theorem witness_groupLaw : Nat.Prime curveState.fbase.toNat ∧ Inv curveState ∧ curveState.cv = true ∧
    curveState.fbase ≠ 2 ∧ 1 ≤ curveState.readX 8 ∧
    curveState.p[0].tag = .valid ∧ curveState.p[3].tag = .valid ∧
    Represents curveState.p[0] (.some 4 5 curveState_nonsingular) ∧
    Represents curveState.p[3] (.zero : (curveOf curveState).Point) :=
  ⟨(by norm_num : Nat.Prime 13), curveState_inv, rfl, by decide, by decide, by decide, by decide,
    ⟨by decide, by decide, by decide, by decide, rfl, rfl⟩, (by decide : curveState.p[3] = ⟨.valid, true, 0, 0⟩)⟩

end Sys2Proof.Tests
end

section
/-!
PROOFS of the scope family: the sign-magnitude data register (00_scope R8, 10_state R21). A register
without negative zero is determined by its value, because its sign bit says exactly whether the value is
negative and its magnitude is the value's absolute value.
-/
namespace Sys2Proof.Machine

variable {w : Nat}

/-- The magnitude is the absolute value, whatever the sign bit. -/
@[simp] theorem SignMag.natAbs_toInt (d : SignMag w) : d.toInt.natAbs = d.mag.toNat := by
  unfold SignMag.toInt
  split <;> simp

/-- Without negative zero, the sign bit is the sign of the value. -/
theorem SignMag.toInt_neg_iff {d : SignMag w} (h : ¬(d.neg = true ∧ d.mag = 0)) :
    d.toInt < 0 ↔ d.neg = true := by
  cases hneg : d.neg with
  | false => simp [SignMag.toInt, hneg]
  | true =>
    have hmag : d.mag.toNat ≠ 0 := fun h0 => h ⟨hneg, BitVec.eq_of_toNat_eq h0⟩
    simp only [SignMag.toInt, hneg, if_true, iff_true]
    omega

/-- A register without negative zero is stored unchanged. -/
theorem SignMag.ofParts_self {d : SignMag w} (h : ¬(d.neg = true ∧ d.mag = 0)) :
    SignMag.ofParts d.neg d.mag = d := by
  obtain ⟨neg, mag⟩ := d
  cases neg with
  | false => rfl
  | true => simpa [SignMag.ofParts] using h

/-- Storing a sign and a magnitude keeps the value: `-0` and `+0` have the same one. -/
theorem SignMag.toInt_ofParts (neg : Bool) (mag : Word w) :
    (SignMag.ofParts neg mag).toInt = if neg then -(mag.toNat : Int) else mag.toNat := by
  by_cases hmag : mag = 0#w
  · simp [SignMag.toInt, SignMag.ofParts, hmag]
  · simp [SignMag.toInt, SignMag.ofParts, hmag]

/-- Exactness: a value that fits is read back as it was stored. -/
theorem SignMag.toInt_ofInt {v : Int} (hv : v.natAbs < 2 ^ w) :
    (SignMag.ofInt v : SignMag w).toInt = v := by
  have hmag : (BitVec.ofNat w v.natAbs).toNat = v.natAbs := by
    rw [BitVec.toNat_ofNat, Nat.mod_eq_of_lt hv]
  rw [SignMag.ofInt, SignMag.toInt_ofParts, hmag]
  simp only [decide_eq_true_eq]
  split <;> omega

/-- One form: a register without negative zero is the one that its value is stored as. -/
theorem SignMag.ofInt_toInt {d : SignMag w} (h : ¬(d.neg = true ∧ d.mag = 0)) :
    SignMag.ofInt d.toInt = d := by
  have hneg : decide (d.toInt < 0) = d.neg := by simp [SignMag.toInt_neg_iff h]
  rw [SignMag.ofInt, hneg, SignMag.natAbs_toInt, BitVec.ofNat_toNat, BitVec.setWidth_eq,
    SignMag.ofParts_self h]

/-- Storing an integer never builds negative zero. -/
theorem SignMag.ofInt_canonical (v : Int) :
    ¬((SignMag.ofInt v : SignMag w).neg = true ∧ (SignMag.ofInt v : SignMag w).mag = 0) :=
  fun ⟨hneg, hmag⟩ => ofParts_canonical _ _ hneg hmag

/-- Range: the value of a register has a magnitude below `2^w`. -/
theorem SignMag.natAbs_toInt_lt (d : SignMag w) : d.toInt.natAbs < 2 ^ w := by
  rw [SignMag.natAbs_toInt]
  exact d.mag.isLt

end Sys2Proof.Machine

open Sys2Proof.Machine in
/-- Settles O31: exactness, uniqueness of the form and range, each a lemma about `SignMag`. -/
theorem dataRegisterRoundTrip : Obligations.DataRegisterRoundTrip := fun _ =>
  ⟨fun v hv => ⟨_, rfl, SignMag.toInt_ofInt hv, SignMag.ofInt_canonical v⟩,
    fun _ h => SignMag.ofInt_toInt h, SignMag.natAbs_toInt_lt⟩

end

section
/-!
PROOFS of the state family, first layer: what the pure functions compute in a prime field (44_field), read
in `ZMod p`, and the two loops that the invariant leans on, the primality test and the characteristic.
-/
namespace Sys2Proof.Machine

/-! ### The primality test (44_field R114) -/

/-- Trial division from `d` on finds a divisor exactly when there is one from `d` up to the square root,
provided that the fuel reaches past the square root. -/
theorem hasDivisorFrom_iff (n fuel d : Nat) (h : n < (d + fuel) * (d + fuel)) :
    hasDivisorFrom n fuel d = true ↔ ∃ k, d ≤ k ∧ k * k ≤ n ∧ k ∣ n := by
  induction fuel generalizing d with
  | zero =>
    simp only [hasDivisorFrom, Bool.false_eq_true, false_iff]
    rintro ⟨k, hdk, hk, -⟩
    exact absurd (Nat.mul_le_mul hdk hdk) (by simp only [Nat.add_zero] at h; omega)
  | succ fuel ih =>
    unfold hasDivisorFrom
    split_ifs with hlt hdvd
    · simp only [false_iff]
      rintro ⟨k, hdk, hk, -⟩
      exact absurd (Nat.mul_le_mul hdk hdk) (by omega)
    · simp only [true_iff]
      exact ⟨d, le_rfl, by omega, Nat.dvd_of_mod_eq_zero hdvd⟩
    · rw [ih (d + 1) (by rwa [Nat.add_right_comm, Nat.add_assoc])]
      refine exists_congr fun k => ⟨fun ⟨h1, h2⟩ => ⟨by omega, h2⟩, fun ⟨h1, h2, h3⟩ => ⟨?_, h2, h3⟩⟩
      have hne : d ≠ k := fun e => hdvd (Nat.mod_eq_zero_of_dvd (e ▸ h3))
      omega

/-- The primality test is exact. -/
theorem isPrime_iff (n : Nat) : isPrime n = true ↔ n.Prime := by
  have hfuel : n < (2 + n) * (2 + n) := by nlinarith
  rw [isPrime, Bool.and_eq_true, decide_eq_true_eq, Bool.not_eq_true', ← Bool.not_eq_true,
    hasDivisorFrom_iff n n 2 hfuel, Nat.prime_def_le_sqrt]
  simp only [Nat.le_sqrt, not_exists, not_and]

/-! ### The characteristic (44_field R130) -/

/-- `reduce_poly` leaves 0. -/
theorem reducePoly_zero (rel : Nat) : reducePoly 0 rel = 0 := rfl

/-- `reduce_poly` of 1 is 1, but for the relation of degree 0. -/
theorem reducePoly_one {rel : Nat} (h : rel ≠ 0) : reducePoly 1 rel = if rel = 1 then 0 else 1 := by
  have hone : bitlen 1 = 1 := rfl
  split_ifs with h1
  · subst h1; rfl
  · have hlen : ¬ bitlen rel ≤ 1 := by rw [bitlen_le_iff]; omega
    simp [reducePoly, reducePolyLoop, hone, hlen]

/-- In non-prime mode `f_add` of two numbers that are not negative is the remainder of their sum as
polynomials (44_field R120). -/
theorem fAdd_nonPrime_natCast {f : FieldCfg} (h : f.prime = false) (x y : Nat) :
    fAdd f x y = .ok (reducePoly (x ^^^ y) f.rel) := by
  have hx : ¬((x : Int) < 0 ∨ (y : Int) < 0) := by omega
  have hxor : ¬(((x ^^^ y : Nat) : Int) < 0) := by omega
  simp only [fAdd, h, hx, reduce_nonPrime h, Int.toNat_natCast, hxor, if_false, Bool.false_eq_true]

/-- The self-addition loop counts to 2, and to 1 for the relation of degree 0. -/
theorem charLoop_eq {f : FieldCfg} (hp : f.prime = false) (hr : f.rel ≠ 0) :
    charLoop f 2 0 0 = .ok (if f.rel = 1 then 1 else 2) := by
  have hfirst : fAdd f 0 1 = .ok (if f.rel = 1 then 0 else 1) := by
    rw [← reducePoly_one hr]; exact fAdd_nonPrime_natCast hp 0 1
  have hsecond : fAdd f 1 1 = .ok 0 := fAdd_nonPrime_natCast hp 1 1
  by_cases h1 : f.rel = 1
  · simp [charLoop, hfirst, h1]
  · simp [charLoop, hfirst, hsecond, h1]

/-! ### Extended Euclid (43_gcd R105) -/

/-- With enough fuel the loop ends with the greatest common divisor and Bézout's coefficients. -/
theorem egcdLoop_bezout (fuel a b : Nat) (h : a < fuel) :
    (egcdLoop fuel a b).1 = Nat.gcd a b ∧
      (a : Int) * (egcdLoop fuel a b).2.1 + b * (egcdLoop fuel a b).2.2 = Nat.gcd a b := by
  induction fuel generalizing a b with
  | zero => omega
  | succ fuel ih =>
    unfold egcdLoop
    split_ifs with ha
    · simp [ha]
    · obtain ⟨hgcd, hbez⟩ := ih (b % a) a (by have := Nat.mod_lt b (Nat.pos_of_ne_zero ha); omega)
      rw [← Nat.gcd_rec] at hgcd hbez
      refine ⟨hgcd, ?_⟩
      have hdiv : (b : Int) = (b % a : Nat) + a * (b / a : Nat) := by
        exact_mod_cast (Nat.mod_add_div b a).symm
      rw [← hbez]
      linear_combination (egcdLoop fuel (b % a) a).2.1 * hdiv

/-- Bézout's identity for `egcd`. -/
theorem egcd_bezout (a b : Nat) : (a : Int) * (egcd a b).2.1 + b * (egcd a b).2.2 = Nat.gcd a b :=
  (egcdLoop_bezout (a + 1) a b (by omega)).2

/-! ### Prime mode in `ZMod p` -/

/-- In prime mode `reduce` is the cast to the field. -/
theorem reduce_zmod {f : FieldCfg} (h : f.prime = true) (hb : 0 < f.base) (n : Int) :
    ∃ r : Nat, reduce f n = .ok r ∧ r < f.base ∧ (r : ZMod f.base) = n := by
  obtain ⟨r, hr, hcast, hlt⟩ := reduce_prime_cast h hb n
  refine ⟨r, hr, hlt, ?_⟩
  have : ((r : Int) : ZMod f.base) = n := by rw [hcast, ZMod.intCast_mod]
  exact_mod_cast this

/-- In prime mode `f_neg` is the negative in the field. -/
theorem fNeg_zmod {f : FieldCfg} (h : f.prime = true) (hb : 0 < f.base) (x : Int) :
    ∃ r : Nat, fNeg f x = .ok r ∧ r < f.base ∧ (r : ZMod f.base) = -x := by
  obtain ⟨r, -, hcast, hlt⟩ := reduce_prime_cast h hb (-x)
  refine ⟨r, by rw [fNeg_prime_cast h hb, hcast], hlt, ?_⟩
  have : ((r : Int) : ZMod f.base) = (-x : Int) := by rw [hcast, ZMod.intCast_mod]
  exact_mod_cast this

/-- Two residues below `p` are equal exactly when they are equal in the field. -/
theorem residue_eq_iff {p a b : Nat} (ha : a < p) (hb : b < p) : (a : ZMod p) = b ↔ a = b := by
  rw [ZMod.natCast_eq_natCast_iff', Nat.mod_eq_of_lt ha, Nat.mod_eq_of_lt hb]

/-- The curve equation as an equation in the field. -/
theorem onCurveMod_iff_zmod {p a b r s : Nat} :
    OnCurveMod p a b r s ↔ (s : ZMod p) ^ 2 = (r : ZMod p) ^ 3 + a * r + b := by
  rw [OnCurveMod, ← ZMod.natCast_eq_natCast_iff']
  push_cast
  rw [pow_two]

/-- In prime mode `f_inv` of an operand that is not zero in the field is its inverse there. -/
theorem fInv_zmod {f : FieldCfg} (h : f.prime = true) (hb : f.base.Prime) {x : Int}
    (hx : (x : ZMod f.base) ≠ 0) :
    ∃ v : Nat, fInv f x = .ok v ∧ v < f.base ∧ (x : ZMod f.base) * v = 1 := by
  obtain ⟨r, hr, hlt, hrx⟩ := reduce_zmod h hb.pos x
  have hr0 : r ≠ 0 := by rintro rfl; exact hx (by rw [← hrx]; simp)
  obtain ⟨v, hv, hvlt, hvx⟩ := reduce_zmod h hb.pos (egcd r f.base).2.1
  refine ⟨v, by simp [fInv, hr, hr0, hv], hvlt, ?_⟩
  have hgcd : Nat.gcd r f.base = 1 :=
    (Nat.coprime_of_lt_prime hr0 hlt hb).symm
  have hbez := congrArg (Int.cast : Int → ZMod f.base) (egcd_bezout r f.base)
  rw [hgcd] at hbez
  push_cast at hbez
  rw [← hrx, hvx]
  simpa using hbez

/-- In prime mode `f_div` by a divisor that is not zero in the field is the quotient there. -/
theorem fDiv_zmod {f : FieldCfg} (h : f.prime = true) (hb : f.base.Prime) (x : Int) {y : Int}
    (hy : (y : ZMod f.base) ≠ 0) :
    ∃ v : Nat, fDiv f x y = .ok v ∧ v < f.base ∧ (v : ZMod f.base) * y = x := by
  obtain ⟨i, hi, -, hyi⟩ := fInv_zmod h hb hy
  obtain ⟨v, hv, hvlt, hvx⟩ := reduce_zmod h hb.pos (x * i)
  refine ⟨v, by simp [fDiv, hi, asDivision, hv], hvlt, ?_⟩
  rw [hvx]
  push_cast
  rw [mul_assoc, mul_comm (i : ZMod f.base), hyi, mul_one]

end Sys2Proof.Machine
end

section
/-!
PROOFS of the state family, second layer: the addition law of 46_curve R156 over a prime field, for every
prime. On points of the curve it always answers, with a point of the curve (R25, R165 (d)).
-/
namespace Sys2Proof.Machine

/-- A curve over a prime field whose residues fit in a register. -/
structure IsPrimeCurve (w : Nat) (c : CurveCfg) : Prop where
  prime : c.field.prime = true
  basePrime : c.field.base.Prime
  baseLt : c.field.base < 2 ^ w

/-- What 10_state R25 says of a `VALID` point: infinity in its one form, or reduced and on the curve. -/
structure IsCurvePoint {w : Nat} (c : CurveCfg) (q : PointReg w) : Prop where
  valid : q.tag = .valid
  infinity : q.inf = true → q.r = 0 ∧ q.s = 0
  affine : q.inf = false → q.r.toNat < c.field.base ∧ q.s.toNat < c.field.base ∧
    OnCurveMod c.field.base c.a c.b q.r.toNat q.s.toNat

/-! ### The algebra of the chord and of the tangent -/

section
variable {F : Type} [Field F] {a b r1 s1 r2 s2 m : F}

/-- The third point of the chord through two points of the curve with different first coordinates is on
the curve: the cubic and the squared line differ by a polynomial with the two roots `r1` and `r2`. -/
theorem chord_onCurve (h1 : s1 ^ 2 = r1 ^ 3 + a * r1 + b) (h2 : s2 ^ 2 = r2 ^ 3 + a * r2 + b)
    (hr : r2 - r1 ≠ 0) (hm : m * (r2 - r1) = s2 - s1) :
    (m * m * m - 2 * m * r1 - m * r2 + s1) ^ 2 =
      (m * m - r1 - r2) ^ 3 + a * (m * m - r1 - r2) + b := by
  apply mul_left_cancel₀ hr
  linear_combination (r2 - (m * m - r1 - r2)) * h1 + ((m * m - r1 - r2) - r1) * h2 +
    ((m * m - r1 - r2) - r1) * (s2 + s1 + m * (r2 - r1)) * hm

/-- The third point of the tangent at a point of the curve is on the curve. -/
theorem tangent_onCurve (h1 : s1 ^ 2 = r1 ^ 3 + a * r1 + b)
    (hm : m * (2 * s1) = 3 * (r1 * r1) + a) :
    (m * m * m - 2 * m * r1 - m * r1 + s1) ^ 2 =
      (m * m - r1 - r1) ^ 3 + a * (m * m - r1 - r1) + b := by
  linear_combination h1 + ((m * m - r1 - r1) - r1) * hm

end

/-! ### Points of a prime curve -/

section
variable {w : Nat} {c : CurveCfg}

/-- A number that fits in a register is stored exactly. -/
theorem toNat_wordOfInt {n : Nat} (h : n < 2 ^ w) : (wordOfInt n : Word w).toNat = n := by
  rw [wordOfInt, BitVec.ofInt_natCast, BitVec.toNat_ofNat, Nat.mod_eq_of_lt h]

/-- Infinity is a point of every curve. -/
theorem isCurvePoint_inf (c : CurveCfg) : IsCurvePoint c (pointInf : PointReg w) :=
  ⟨rfl, fun _ => ⟨rfl, rfl⟩, nofun⟩

/-- Reduced coordinates that satisfy the equation of the curve make a point of it. -/
theorem isCurvePoint_affine {r s : Word w} (hr : r.toNat < c.field.base) (hs : s.toNat < c.field.base)
    (h : OnCurveMod c.field.base c.a c.b r.toNat s.toNat) : IsCurvePoint c (pointAffine r s) :=
  ⟨rfl, nofun, fun _ => ⟨hr, hs, h⟩⟩

/-- The coordinates of an affine point of the curve satisfy its equation in the field. -/
theorem IsCurvePoint.equation {q : PointReg w} (h : IsCurvePoint c q) (hq : q.inf = false) :
    (q.s.toNat : ZMod c.field.base) ^ 2 =
      (q.r.toNat : ZMod c.field.base) ^ 3 + c.a * q.r.toNat + c.b :=
  onCurveMod_iff_zmod.mp (h.affine hq).2.2

/-- An affine point of the curve is rebuilt from its coordinates. -/
theorem IsCurvePoint.copy {q : PointReg w} (h : IsCurvePoint c q) (hq : q.inf = false) :
    IsCurvePoint c (pointAffine q.r q.s) := by
  obtain ⟨hr, hs, hcurve⟩ := h.affine hq
  exact isCurvePoint_affine hr hs hcurve

/-- The `finish` of the addition law: the third point of the line, reflected. -/
theorem addFinish_zmod (hc : IsPrimeCurve w c) (r1 s1 r2 m : Int) :
    ∃ r3 s3 : Nat, addFinish c r1 s1 r2 m = .ok (pointAffine (wordOfInt r3 : Word w) (wordOfInt s3)) ∧
      r3 < c.field.base ∧ s3 < c.field.base ∧
      (r3 : ZMod c.field.base) = m * m - r1 - r2 ∧
      (s3 : ZMod c.field.base) = -(m * m * m - 2 * m * r1 - m * r2 + s1) := by
  have hpos := hc.basePrime.pos
  obtain ⟨r3, hr3, hr3lt, hr3eq⟩ := reduce_zmod hc.prime hpos (m * m - r1 - r2)
  obtain ⟨t, ht, -, hteq⟩ := reduce_zmod hc.prime hpos (m * m * m - 2 * m * r1 - m * r2 + s1)
  obtain ⟨s3, hs3, hs3lt, hs3eq⟩ := fNeg_zmod hc.prime hpos t
  refine ⟨r3, s3, by simp [addFinish, hr3, ht, hs3], hr3lt, hs3lt, ?_, ?_⟩
  · rw [hr3eq]; push_cast; rfl
  · rw [hs3eq, Int.cast_natCast, hteq]; push_cast; rfl

/-- The `finish` of the addition law writes a point of the curve when the third point of the line is on
the curve. -/
theorem addFinish_onCurve (hc : IsPrimeCurve w c) {r1 s1 r2 m : Int}
    (h : (m * m * m - 2 * m * r1 - m * r2 + s1 : ZMod c.field.base) ^ 2 =
      (m * m - r1 - r2) ^ 3 + c.a * (m * m - r1 - r2) + c.b) :
    ∃ q : PointReg w, addFinish c r1 s1 r2 m = .ok q ∧ IsCurvePoint c q := by
  obtain ⟨r3, s3, hadd, hr3, hs3, hr3eq, hs3eq⟩ := addFinish_zmod hc r1 s1 r2 m
  have hr3w := toNat_wordOfInt (hr3.trans hc.baseLt)
  have hs3w := toNat_wordOfInt (hs3.trans hc.baseLt)
  refine ⟨_, hadd, isCurvePoint_affine (by rwa [hr3w]) (by rwa [hs3w]) ?_⟩
  rw [hr3w, hs3w, onCurveMod_iff_zmod, hr3eq, hs3eq, neg_sq, h]

/-- The chord case of the addition law. -/
theorem addAffine_chord (hc : IsPrimeCurve w c) {p q : PointReg w} (hp : IsCurvePoint c p)
    (hq : IsCurvePoint c q) (hpa : p.inf = false) (hqa : q.inf = false)
    (hne : p.r.toNat ≠ q.r.toNat) : ∃ t : PointReg w, addAffine c p q = .ok t ∧ IsCurvePoint c t := by
  have : Fact c.field.base.Prime := ⟨hc.basePrime⟩
  have hdr : (((q.r.toNat : Int) - p.r.toNat : Int) : ZMod c.field.base) ≠ 0 := by
    push_cast
    rw [sub_ne_zero, Ne, residue_eq_iff (hq.affine hqa).1 (hp.affine hpa).1]
    exact hne.symm
  obtain ⟨m, hm, -, hmeq⟩ := fDiv_zmod hc.prime hc.basePrime ((q.s.toNat : Int) - p.s.toNat) hdr
  push_cast at hdr hmeq
  obtain ⟨t, ht, htc⟩ := addFinish_onCurve hc (r1 := p.r.toNat) (s1 := p.s.toNat) (r2 := q.r.toNat)
    (m := m) (by
      push_cast
      exact chord_onCurve (hp.equation hpa) (hq.equation hqa) hdr hmeq)
  exact ⟨t, by simp [addAffine, hne, hm, ht], htc⟩

/-- In the field a second coordinate and the model's negative of another are equal exactly when the two
coordinates are opposite. -/
theorem eq_fNeg_iff (hc : IsPrimeCurve w c) {p q : PointReg w} (hp : IsCurvePoint c p)
    (hpa : p.inf = false) : ∃ n : Nat, fNeg c.field q.s.toNat = .ok n ∧
      (p.s.toNat = n ↔ (p.s.toNat : ZMod c.field.base) = -q.s.toNat) := by
  obtain ⟨n, hn, hlt, hneq⟩ := fNeg_zmod hc.prime hc.basePrime.pos (q.s.toNat : Int)
  refine ⟨n, hn, ?_⟩
  rw [← residue_eq_iff (hp.affine hpa).2.1 hlt, hneq, Int.cast_natCast]

/-- Opposite points add to infinity. -/
theorem addAffine_opposite (hc : IsPrimeCurve w c) {p q : PointReg w} (hp : IsCurvePoint c p)
    (hpa : p.inf = false) (hr : p.r.toNat = q.r.toNat)
    (hs : (p.s.toNat : ZMod c.field.base) = -q.s.toNat) : addAffine c p q = .ok pointInf := by
  obtain ⟨n, hn, hiff⟩ := eq_fNeg_iff hc (q := q) hp hpa
  simp [addAffine, hr, hn, hiff.mpr hs]

/-- The tangent case of the addition law. -/
theorem addAffine_tangent (hc : IsPrimeCurve w c) {p q : PointReg w} (hp : IsCurvePoint c p)
    (hpa : p.inf = false) (hr : p.r.toNat = q.r.toNat) (hs : p.s.toNat = q.s.toNat)
    (hne : (p.s.toNat : ZMod c.field.base) ≠ -q.s.toNat) :
    ∃ t : PointReg w, addAffine c p q = .ok t ∧ IsCurvePoint c t := by
  have : Fact c.field.base.Prime := ⟨hc.basePrime⟩
  obtain ⟨n, hn, hiff⟩ := eq_fNeg_iff hc (q := q) hp hpa
  have hsn : q.s.toNat ≠ n := hs ▸ hiff.not.mpr hne
  have hs0 : q.s.toNat ≠ 0 := fun h0 => hne (by simp [hs, h0])
  have hden : ((2 * p.s.toNat : Int) : ZMod c.field.base) ≠ 0 := by
    push_cast
    intro h0
    exact hne (by rw [← hs]; linear_combination h0)
  obtain ⟨m, hm, -, hmeq⟩ :=
    fDiv_zmod hc.prime hc.basePrime (3 * ((p.r.toNat : Int) * p.r.toNat) + c.a) hden
  push_cast at hmeq
  obtain ⟨t, ht, htc⟩ := addFinish_onCurve hc (r1 := p.r.toNat) (s1 := p.s.toNat) (r2 := p.r.toNat)
    (m := m) (by push_cast; exact tangent_onCurve (hp.equation hpa) hmeq)
  rw [hr, hs] at hm ht
  exact ⟨t, by simp [addAffine, hr, hs, hn, hsn, hs0, hm, ht], htc⟩

/-- The fall-through of the addition law is not reached: over a field, two points of one curve with the
same first coordinate have equal or opposite second coordinates. -/
theorem sameR_cases (hc : IsPrimeCurve w c) {p q : PointReg w} (hp : IsCurvePoint c p)
    (hq : IsCurvePoint c q) (hpa : p.inf = false) (hqa : q.inf = false)
    (hr : p.r.toNat = q.r.toNat) :
    p.s.toNat = q.s.toNat ∨ (p.s.toNat : ZMod c.field.base) = -q.s.toNat := by
  have : Fact c.field.base.Prime := ⟨hc.basePrime⟩
  rw [← residue_eq_iff (hp.affine hpa).2.1 (hq.affine hqa).2.1]
  exact sq_eq_sq_iff_eq_or_eq_neg.mp (by rw [hp.equation hpa, hq.equation hqa, hr])

/-- The addition law of two affine points of the curve. -/
theorem addAffine_onCurve (hc : IsPrimeCurve w c) {p q : PointReg w} (hp : IsCurvePoint c p)
    (hq : IsCurvePoint c q) (hpa : p.inf = false) (hqa : q.inf = false) :
    ∃ t : PointReg w, addAffine c p q = .ok t ∧ IsCurvePoint c t := by
  by_cases hr : p.r.toNat = q.r.toNat
  · by_cases hopp : (p.s.toNat : ZMod c.field.base) = -q.s.toNat
    · exact ⟨_, addAffine_opposite hc hp hpa hr hopp, isCurvePoint_inf c⟩
    · have hs := (sameR_cases hc hp hq hpa hqa hr).resolve_right hopp
      exact addAffine_tangent hc hp hpa hr hs hopp
  · exact addAffine_chord hc hp hq hpa hqa hr

/-- The addition law answers on the points of the curve, and stays among them. -/
theorem pAdd_onCurve (hc : IsPrimeCurve w c) {p q : PointReg w} (hp : IsCurvePoint c p)
    (hq : IsCurvePoint c q) : ∃ t, pAdd c p q = .ok t ∧ IsCurvePoint c t := by
  cases hpi : p.inf <;> cases hqi : q.inf
  case true.true => exact ⟨_, pAdd_inf_inf hpi hqi, isCurvePoint_inf c⟩
  case true.false => exact ⟨_, pAdd_inf_affine hpi hqi, hq.copy hqi⟩
  case false.true => exact ⟨_, pAdd_affine_inf hpi hqi, hp.copy hpi⟩
  case false.false =>
    rw [pAdd_affine hpi hqi]
    exact addAffine_onCurve hc hp hq hpi hqi

/-- The negative of a point of the curve is one. -/
theorem pNeg_onCurve (hc : IsPrimeCurve w c) {p : PointReg w} (hp : IsCurvePoint c p) :
    ∃ t, pNeg c p = .ok t ∧ IsCurvePoint c t := by
  cases hpi : p.inf
  case true => exact ⟨pointInf, by simp [pNeg, hpi], isCurvePoint_inf c⟩
  case false =>
    obtain ⟨n, hn, hlt, hneq⟩ := fNeg_zmod hc.prime hc.basePrime.pos (p.s.toNat : Int)
    have hnw := toNat_wordOfInt (hlt.trans hc.baseLt)
    refine ⟨_, by simp only [pNeg, hpi, hn]; rfl,
      isCurvePoint_affine (hp.affine hpi).1 (by rwa [hnw]) ?_⟩
    rw [hnw, onCurveMod_iff_zmod, hneq, Int.cast_natCast, neg_sq, hp.equation hpi]

/-- Double-and-add stays among the points of the curve, bit by bit. -/
theorem pMulLoop_onCurve (hc : IsPrimeCurve w c) {p : PointReg w} (hp : IsCurvePoint c p) (n k : Nat)
    {acc : PointReg w} (hacc : IsCurvePoint c acc) :
    ∃ t, pMulLoop c p n k acc = .ok t ∧ IsCurvePoint c t := by
  induction k generalizing acc with
  | zero => exact ⟨acc, rfl, hacc⟩
  | succ k ih =>
    obtain ⟨dbl, hdbl, hdblc⟩ := pAdd_onCurve hc hacc hacc
    cases hbit : n.testBit k
    case false =>
      obtain ⟨t, ht, htc⟩ := ih hdblc
      exact ⟨t, by simp [pMulLoop, hdbl, hbit, ht], htc⟩
    case true =>
      obtain ⟨sum, hsum, hsumc⟩ := pAdd_onCurve hc hdblc hp
      obtain ⟨t, ht, htc⟩ := ih hsumc
      exact ⟨t, by simp [pMulLoop, hdbl, hbit, hsum, ht], htc⟩

/-- The multiple of a point of the curve is one. -/
theorem pMul_onCurve (hc : IsPrimeCurve w c) {p : PointReg w} (hp : IsCurvePoint c p) (n : Nat) :
    ∃ t, pMul c p n = .ok t ∧ IsCurvePoint c t :=
  pMulLoop_onCurve hc hp n _ hp

/-- The validity check of `ECMUL` passes on every point of the curve (46_curve R161). -/
theorem checkOnCurve_of_isCurvePoint (hc : IsPrimeCurve w c) {p : PointReg w} (hp : IsCurvePoint c p) :
    checkOnCurve c p = .ok () := by
  cases hpi : p.inf
  case true => simp [checkOnCurve, hpi]
  case false =>
    obtain ⟨f, hf, hiff⟩ := onCurve_prime hc.prime p.r.toNat p.s.toNat
    simp [checkOnCurve, hpi, hf, hiff.mpr (hp.affine hpi).2.2]

end
end Sys2Proof.Machine
end

section
/-!
PROOFS of the state family, third layer: every operation that changes the state keeps the invariant
(10_state R34), one lemma per operation.
-/
namespace Sys2Proof.Machine

/-- A register file after one write, read at any index. -/
theorem getElem_set_reg {α : Type} (v : Vector α 16) (i j : RegIdx) (d : α) :
    (v.set i d)[j] = if i = j then d else v[j] := by
  simp only [Fin.getElem_fin, Vector.getElem_set, Fin.val_inj]

variable {w : Nat} {s : State w}

/-! ### What the invariant says of the curve and of its points -/

/-- A constructed curve is one over a prime field (10_state R34 (a), R30). -/
theorem Inv.isPrimeCurve (h : Inv s) (hcv : s.cv = true) : IsPrimeCurve w s.curve := by
  obtain ⟨hfv, hfp⟩ := h.curveNeedsPrimeField hcv
  exact ⟨hfp, (h.primeFlagExact hfv).mp hfp, s.fbase.isLt⟩

/-- A `VALID` register holds a point of the curve (10_state R25). -/
theorem Inv.isCurvePoint (h : Inv s) {i : RegIdx} (hi : s.p[i].tag = .valid) :
    IsCurvePoint s.curve s.p[i] :=
  ⟨hi, h.infinityIsZero i, h.validIsOnCurve i hi⟩

/-! ### Writes of registers -/

theorem Inv.setDataReg (h : Inv s) (i : RegIdx) {d : SignMag w} (hd : d.neg = true → d.mag ≠ 0) :
    Inv { s with x := s.x.set i d } :=
  { h with
    noNegativeZero := fun j => by
      dsimp only
      rw [getElem_set_reg]
      split
      · exact hd
      · exact h.noNegativeZero j }

theorem Inv.writeX (h : Inv s) (i : RegIdx) (v : Int) : Inv (s.writeX i v) :=
  h.setDataReg i (ofParts_canonical _ _)

theorem Inv.writeP (h : Inv s) (i : RegIdx) {q : PointReg w} (hcv : s.cv = true)
    (hq : IsCurvePoint s.curve q) : Inv (s.writeP i q) := by
  have hp (j : RegIdx) : (s.writeP i q).p[j] = if i = j then q else s.p[j] := getElem_set_reg ..
  refine { h with noCurveIsCleared := ?_, infinityIsZero := ?_, emptyIsZero := ?_, validIsOnCurve := ?_ }
  · intro hno
    exact absurd hcv (by simpa using hno)
  all_goals
    intro j
    rw [hp]
    split
  · exact hq.infinity
  · exact h.infinityIsZero j
  · simp [hq.valid]
  · exact h.emptyIsZero j
  · exact fun _ => hq.affine
  · exact h.validIsOnCurve j

theorem Inv.setFlag (h : Inv s) (f : Bool) : Inv (s.setFlag f) := { h with }

/-- The cache's write of `FCHAR` (44_field R131), where it happens. -/
theorem Inv.setCharCache (h : Inv s) (hfv : s.fv = true) (hfp : s.fp = false) {v : Nat}
    (hv : v = 1 ∨ v = 2) : Inv { s with fchr := BitVec.ofNat w v, chv := true } := by
  refine { h with noFieldIsCleared := fun hno => absurd hfv (by simpa using hno), cacheIsOneOrTwo := ?_ }
  refine fun _ => ⟨hfv, hfp, ?_⟩
  rcases hv with rfl | rfl
  · exact .inl rfl
  · exact .inr rfl

/-! ### Construction of a field and of a curve -/

/-- What a field construction stores (44_field R115, R116): a base that fits, its exact primality, and a
relation where the base is not prime. -/
structure IsNewField (w base : Nat) (fp relv : Bool) (rel : Nat) : Prop where
  twoLe : 2 ≤ base
  baseLt : base < 2 ^ w
  primeExact : fp = true ↔ base.Prime
  relation : fp = false → relv = true ∧ 0 < rel ∧ rel < 2 ^ w

/-- What a curve construction stores (46_curve R151): reduced coefficients of a regular curve. -/
structure IsNewCurve (base a b : Nat) : Prop where
  aLt : a < base
  bLt : b < base
  regular : (4 * a ^ 3 + 27 * b ^ 2) % base ≠ 0

theorem Tag.afterField_ne_valid (t : Tag) : t.afterField ≠ .valid := by cases t <;> decide
theorem Tag.afterField_eq_empty {t : Tag} : t.afterField = .empty ↔ t = .empty := by cases t <;> decide
theorem Tag.afterCurve_ne_valid (t : Tag) : t.afterCurve ≠ .valid := by cases t <;> decide
theorem Tag.afterCurve_eq_empty {t : Tag} : t.afterCurve = .empty ↔ t = .empty := by cases t <;> decide

theorem Inv.fieldCommit (h : Inv s) {base rel : Nat} {fp relv : Bool}
    (hf : IsNewField w base fp relv rel) : Inv (fieldCommit s base fp relv rel) := by
  have hbase : (BitVec.ofNat w base).toNat = base := by
    rw [BitVec.toNat_ofNat, Nat.mod_eq_of_lt hf.baseLt]
  refine
    { h with
      curveNeedsPrimeField := nofun, noFieldIsCleared := nofun, cacheIsOneOrTwo := nofun,
      curveIsRegular := nofun, baseAtLeastTwo := ?_, primeFlagExact := ?_, nonPrimeHasRelation := ?_,
      noCurveIsCleared := ?_, infinityIsZero := ?_, emptyIsZero := ?_, validIsOnCurve := ?_ }
  · simpa [hbase] using hf.twoLe
  · simpa [hbase] using hf.primeExact
  · intro _ hfp
    obtain ⟨hrelv, hpos, hlt⟩ := hf.relation hfp
    refine ⟨hrelv, fun h0 => ?_⟩
    have := congrArg BitVec.toNat h0
    simp [Nat.mod_eq_of_lt hlt] at this
    omega
  · simp [Tag.afterField_ne_valid]
  · simpa using h.infinityIsZero
  · simpa [Tag.afterField_eq_empty] using h.emptyIsZero
  · simp [Tag.afterField_ne_valid]

theorem Inv.curveCommit (h : Inv s) (hfv : s.fv = true) (hfp : s.fp = true) {a b : Nat}
    (hc : IsNewCurve s.fbase.toNat a b) : Inv (curveCommit s a b) := by
  have hstored {n : Nat} (hn : n < s.fbase.toNat) : (BitVec.ofNat w n).toNat = n := by
    rw [BitVec.toNat_ofNat, Nat.mod_eq_of_lt (hn.trans s.fbase.isLt)]
  refine
    { h with
      curveNeedsPrimeField := fun _ => ⟨hfv, hfp⟩, noCurveIsCleared := nofun, noFieldIsCleared := ?_,
      curveIsRegular := ?_, infinityIsZero := ?_, emptyIsZero := ?_, validIsOnCurve := ?_ }
  · exact fun hno => absurd hfv (by simpa using hno)
  · simpa [hstored hc.aLt, hstored hc.bLt] using ⟨hc.aLt, hc.bLt, hc.regular⟩
  · simpa using h.infinityIsZero
  · simpa [Tag.afterCurve_eq_empty] using h.emptyIsZero
  · simp [Tag.afterCurve_ne_valid]

/-! ### How a command ends, and reset -/

/-- Outside the fatal state there is no fatal cause (10_state R34 (f)). -/
theorem Inv.fcause_eq_zero (h : Inv s) (hs : s.phase ≠ .fatal) : s.fcause = 0 :=
  not_not.mp (h.causeExactlyInFatal.not.mpr hs)

theorem Inv.endSuccess (h : Inv s) (hs : s.phase ≠ .fatal) : Inv s.endSuccess :=
  { h with
    causeExactlyInFatal := by simp [h.fcause_eq_zero hs]
    errorCodeKnown := by simp }

theorem Inv.endTyped (h : Inv s) (hs : s.phase ≠ .fatal) (e : TypedError) : Inv (s.endTyped e) :=
  { h with
    causeExactlyInFatal := by simp [h.fcause_eq_zero hs]
    errorCodeKnown := (typedError_code_range e).2 }

theorem Inv.endFatal (h : Inv s) : Inv (s.endFatal .negativeNonPrimeReduce) :=
  { h with
    causeExactlyInFatal := by simpa using fatalCause_code_ne _
    causeIsAtMostOne := by simp [FatalCause.code] }

theorem inv_resetAt (w : Nat) : Inv (State.resetAt w) where
  noNegativeZero := by simp [State.resetAt]
  curveNeedsPrimeField := nofun
  noFieldIsCleared := fun _ => ⟨rfl, rfl, rfl, rfl, rfl, rfl, rfl, rfl, rfl⟩
  baseAtLeastTwo := nofun
  primeFlagExact := nofun
  nonPrimeHasRelation := nofun
  cacheIsOneOrTwo := nofun
  noCurveIsCleared := by simp [State.resetAt]
  curveIsRegular := nofun
  causeExactlyInFatal := by simp [State.resetAt]
  infinityIsZero := by simp [State.resetAt]
  emptyIsZero := by simp [State.resetAt]
  validIsOnCurve := by simp [State.resetAt]
  errorCodeKnown := by simp [State.resetAt]
  causeIsAtMostOne := by simp [State.resetAt]

/-! ### Host operations (20_memory R51 to R58) -/

theorem Inv.hostEffect (h : Inv s) {op : HostOp w} (hop : op.acceptedIn s.phase = true) :
    Inv (hostEffect op s) := by
  cases op with
  | writeX i neg mag => exact { h.setDataReg i (ofParts_canonical neg mag) with }
  | readX i | readP i | readCSR n | writeCTRL v => exact { h with }
  | issue word =>
    have hidle : s.phase = .idle := by simpa [HostOp.acceptedIn] using hop
    exact { h with causeExactlyInFatal := by simp [Machine.hostEffect, h.fcause_eq_zero, hidle] }
  | reset => exact { inv_resetAt w with }

theorem Inv.hostStep (h : Inv s) (op : HostOp w) : Inv (hostStep op s) := by
  cases hop : op.acceptedIn s.phase
  case true => rw [hostStep_accepted hop]; exact h.hostEffect hop
  case false => rw [hostStep_not_accepted hop]; exact { h with }

end Sys2Proof.Machine
end

section
/-!
PROOFS of the state family, fourth layer: what each command can do. A command that succeeds has made a
list of writes, each to a part of the state that the command owns (`Writes`); a command that goes fatal
does so with cause 1, when the invariant holds (60_exceptions R187).
-/
namespace Sys2Proof.Machine

/-! ### The fall-through of the addition law, and the functions that cannot reach it -/

/-- A computation that does not end in the fall-through of the addition law (60_exceptions R187, cause 2). -/
def NoFallThrough {α : Type} (x : Alg α) : Prop := x ≠ .error (.fatal .addCaseFallThrough)

section
variable {α β : Type}

theorem NoFallThrough.ok (v : α) : NoFallThrough (.ok v : Alg α) := nofun

theorem NoFallThrough.raise (e : TypedError) : NoFallThrough (raise e : Alg α) := nofun

theorem NoFallThrough.fatalReduce : NoFallThrough (fatal .negativeNonPrimeReduce : Alg α) := nofun

theorem NoFallThrough.require (ok : Bool) (e : TypedError) : NoFallThrough (require ok e) := by
  cases ok <;> nofun

theorem NoFallThrough.bind {x : Alg α} {f : α → Alg β} (hx : NoFallThrough x)
    (hf : ∀ v, NoFallThrough (f v)) : NoFallThrough (x >>= f) := by
  intro h
  rcases bind_eq_error.mp h with hstop | ⟨v, -, hstop⟩
  · exact hx hstop
  · exact hf v hstop

/-- A computation that is known to answer does not fall through. -/
theorem NoFallThrough.of_answers {x : Alg α} {post : α → Prop} (h : ∃ v, x = .ok v ∧ post v) :
    NoFallThrough x := by
  obtain ⟨v, rfl, -⟩ := h
  exact .ok v

end

section
variable (f : FieldCfg)

theorem noFallThrough_reduce (n : Int) : NoFallThrough (reduce f n) := by
  unfold reduce
  split_ifs
  · exact .ok _
  · exact .fatalReduce
  · exact .ok _

theorem noFallThrough_fAdd (x y : Int) : NoFallThrough (fAdd f x y) := by
  unfold fAdd
  split_ifs
  · exact noFallThrough_reduce f _
  · exact .fatalReduce
  · exact noFallThrough_reduce f _

theorem noFallThrough_fNeg (x : Int) : NoFallThrough (fNeg f x) :=
  (noFallThrough_reduce f x).bind fun _ => .ok _

theorem noFallThrough_fInv (x : Int) : NoFallThrough (fInv f x) :=
  (noFallThrough_reduce f x).bind fun _ =>
    (NoFallThrough.require _ _).bind fun _ => noFallThrough_reduce f _

theorem NoFallThrough.asDivision {r : Alg Nat} (h : NoFallThrough r) : NoFallThrough (asDivision r) := by
  unfold Machine.asDivision
  split
  · exact .raise _
  · exact h
  · exact .ok _

theorem noFallThrough_fDiv (x y : Int) : NoFallThrough (fDiv f x y) :=
  (noFallThrough_fInv f y).asDivision.bind fun _ => noFallThrough_reduce f _

theorem noFallThrough_charLoop (fuel acc count : Nat) : NoFallThrough (charLoop f fuel acc count) := by
  induction fuel generalizing acc count with
  | zero => exact .ok _
  | succ fuel ih =>
    refine (noFallThrough_fAdd f _ _).bind fun v => ?_
    split_ifs
    · exact .ok _
    · exact ih _ _

theorem noFallThrough_fChar (cached : Option Nat) : NoFallThrough (fChar f cached) := by
  unfold fChar
  split_ifs
  · exact .ok _
  · cases cached with
    | none => exact noFallThrough_charLoop f _ _ _
    | some v => exact .ok v

theorem noFallThrough_fSqrt (a : Nat) : NoFallThrough (fSqrt f a) := by
  refine (NoFallThrough.require _ _).bind fun _ => ?_
  dsimp only
  split_ifs
  · exact (noFallThrough_fNeg f _).bind fun _ => .ok _
  · split
    · exact .raise _
    · exact (noFallThrough_fNeg f _).bind fun _ => .ok _

theorem noFallThrough_onCurve (c : CurveCfg) (r s : Nat) : NoFallThrough (onCurve c r s) :=
  (noFallThrough_reduce _ _).bind fun _ => (noFallThrough_reduce _ _).bind fun _ => .ok _

end

section
variable {w : Nat}

theorem noFallThrough_sourceP (s : State w) (i : RegIdx) : NoFallThrough (sourceP s i) := by
  refine NoFallThrough.bind ?_ fun _ => .ok _
  cases (s.readP i).tag <;> nofun

theorem noFallThrough_checkOnCurve (c : CurveCfg) (p : PointReg w) : NoFallThrough (checkOnCurve c p) := by
  unfold checkOnCurve
  split_ifs
  · exact .ok ()
  · exact (noFallThrough_onCurve c _ _).bind fun _ => .require _ _

end

/-! ### The writes of a command -/

/-- `Writes i s t`: from `s`, writes that command `i` may make lead to `t`, which is not yet ended. Each
constructor is one write to a part of the state that the command owns, with what is known of the value
written. -/
inductive Writes {w : Nat} (i : Instr) (s : State w) : State w → Prop
  | nothing : Writes i s s
  | dataReg {t : State w} {a : RegIdx} {v : Int} :
      Writes i s t → a ∈ xDests i → Writes i s (t.writeX a v)
  | pointReg {t : State w} {a : RegIdx} {q : PointReg w} :
      Writes i s t → pDests i = [a] → t.cv = true → (Inv t → IsCurvePoint t.curve q) →
      Writes i s (t.writeP a q)
  | flag {t : State w} {f : Bool} : Writes i s t → writesFlag i = true → Writes i s (t.setFlag f)
  | cache {t : State w} {v : Nat} : Writes i s t → (∃ a, i = .fchar a) → t.fv = true → t.fp = false →
      (Inv t → v = 1 ∨ v = 2) → Writes i s { t with fchr := BitVec.ofNat w v, chv := true }
  | field {t : State w} {base rel : Nat} {fp relv : Bool} : Writes i s t → constructsField i = true →
      IsNewField w base fp relv rel → Writes i s (fieldCommit t base fp relv rel)
  | curve {t : State w} {a b : Nat} : Writes i s t → constructsCurve i = true → t.fv = true →
      t.fp = true → (Inv t → IsNewCurve t.fbase.toNat a b) → Writes i s (curveCommit t a b)

/-- What is known of a computation whose answers should satisfy `post`: they do, and it does not fall
through when `inv` holds. -/
def Gives {α : Type} (inv : Prop) (x : Alg α) (post : α → Prop) : Prop :=
  (∀ v, x = .ok v → post v) ∧ (inv → NoFallThrough x)

section
variable {α β : Type} {inv : Prop}

/-- A first part that may fall through only where `inv` fails. -/
theorem Gives.after {x : Alg α} {f : α → Alg β} {post : β → Prop} (hx : inv → NoFallThrough x)
    (hf : ∀ v, x = .ok v → Gives inv (f v) post) : Gives inv (x >>= f) post := by
  constructor
  · intro u hu
    obtain ⟨v, hv, hfv⟩ := bind_eq_ok.mp hu
    exact (hf v hv).1 u hfv
  · intro hinv h
    rcases bind_eq_error.mp h with hstop | ⟨v, hv, hstop⟩
    · exact hx hinv hstop
    · exact (hf v hv).2 hinv hstop

/-- A first part that does not fall through. -/
theorem NoFallThrough.andThen {x : Alg α} {f : α → Alg β} {post : β → Prop} (hx : NoFallThrough x)
    (hf : ∀ v, x = .ok v → Gives inv (f v) post) : Gives inv (x >>= f) post :=
  Gives.after (fun _ => hx) hf

/-- A check, after which its condition is known. -/
theorem Gives.check {ok : Bool} {e : TypedError} {f : Unit → Alg β} {post : β → Prop}
    (hf : ok = true → Gives inv (f ()) post) : Gives inv (require ok e >>= f) post :=
  (NoFallThrough.require ok e).andThen fun _ h => hf (require_eq_ok.mp h)

theorem Gives.ok {v : α} {post : α → Prop} (h : post v) : Gives inv (.ok v) post :=
  ⟨fun _ hu => Except.ok.inj hu ▸ h, fun _ => .ok v⟩

theorem Gives.raise {e : TypedError} {post : α → Prop} : Gives inv (raise e) post :=
  ⟨nofun, fun _ => .raise e⟩

variable {w : Nat} {s t : State w} {i : Instr}

theorem Gives.commitX {a : RegIdx} {v : Int} (h : Writes i s t) (hd : xDests i = [a]) :
    Gives inv (commitX t a v) (Writes i s) :=
  Gives.check fun _ => .ok (h.dataReg (by simp [hd]))

theorem Gives.commitX2 {a b : RegIdx} {v u : Int} (h : Writes i s t) (hd : xDests i = [a, b]) :
    Gives inv (commitX2 t a b v u) (Writes i s) :=
  Gives.check fun _ => Gives.check fun _ => .ok ((h.dataReg (by simp [hd])).dataReg (by simp [hd]))

theorem Gives.commitX3 {a b c : RegIdx} {v u z : Int} (h : Writes i s t) (hd : xDests i = [a, b, c]) :
    Gives inv (commitX3 t a b c v u z) (Writes i s) :=
  Gives.check fun _ => Gives.check fun _ => Gives.check fun _ =>
    .ok (((h.dataReg (by simp [hd])).dataReg (by simp [hd])).dataReg (by simp [hd]))

end
end Sys2Proof.Machine
end

section
/-!
PROOFS of the state family, fifth layer: the 25 commands, each held to `Writes`, and what follows for
every command at once.
-/
namespace Sys2Proof.Machine

section
variable {w : Nat} {s : State w}

/-! ### What the checks of a command give for the values it writes -/

/-- The value of a computation that is known to answer with `post` satisfies `post`. -/
theorem post_of_answers {α : Type} {x : Alg α} {post : α → Prop} (h : ∃ v, x = .ok v ∧ post v)
    {u : α} (hu : x = .ok u) : post u := by
  obtain ⟨v, hv, hpost⟩ := h
  rwa [← Except.ok.inj (hv.symm.trans hu)]

/-- An X source, read as a number, fits in a register. -/
theorem readX_toNat_lt (s : State w) (i : RegIdx) : (s.readX i).toNat < 2 ^ w := by
  have := readX_natAbs_lt s i
  omega

/-- An entry of `DEFREL` is a relation that fits (00_scope R8). -/
theorem defRel_bounds {base rel : Nat} (h : Config.defRel base w = some rel) : 0 < rel ∧ rel < 2 ^ w := by
  unfold Config.defRel at h
  split_ifs at h
  simpa using (Option.filter_eq_some_iff.mp h).2

/-- In prime mode a value that `reduce` gave is a residue. -/
theorem reduce_lt {f : FieldCfg} (h : f.prime = true) (hb : 0 < f.base) {n : Int} {r : Nat}
    (hr : reduce f n = .ok r) : r < f.base :=
  (post_of_answers (reduce_zmod h hb n) hr).1

/-- The reduced coefficients of `ECNEW` whose discriminant is not zero make a curve. -/
theorem isNewCurve_of_checks (hfp : s.fp = true) (hb : 0 < s.fbase.toNat) {x y : Int} {a b d : Nat}
    (ha : reduce s.field x = .ok a) (hy : reduce s.field y = .ok b)
    (hd : discriminant s.field a b = .ok d) (hd0 : d ≠ 0) : IsNewCurve s.fbase.toNat a b := by
  refine ⟨reduce_lt (f := s.field) hfp hb ha, reduce_lt (f := s.field) hfp hb hy, fun h0 => hd0 ?_⟩
  obtain ⟨r, hr, hcast, -⟩ := reduce_prime_cast (f := s.field) hfp hb (4 * (a * a * a) + 27 * (b * b))
  have hdr : d = r := Except.ok.inj (hd.symm.trans hr)
  have h0' : ((4 * a ^ 3 + 27 * b ^ 2 : Nat) : Int) % s.fbase.toNat = 0 := by exact_mod_cast h0
  have hpoly : (4 * (a * a * a) + 27 * (b * b) : Int) = ((4 * a ^ 3 + 27 * b ^ 2 : Nat) : Int) := by
    push_cast; ring
  rw [hpoly] at hcast
  rw [hdr]
  exact_mod_cast hcast.trans h0'

/-- The reduced coordinates that `ECPOINT` found on the curve make a point of it. -/
theorem isCurvePoint_of_checks (h : Inv s) (hcv : s.cv = true) {x y : Int} {r t : Nat} {f : Bool}
    (hr : reduce s.field x = .ok r) (ht : reduce s.field y = .ok t)
    (hf : onCurve s.curve r t = .ok f) (hf1 : f = true) :
    IsCurvePoint s.curve (pointAffine (BitVec.ofNat w r) (BitVec.ofNat w t)) := by
  have hc := h.isPrimeCurve hcv
  have hrlt := reduce_lt hc.prime hc.basePrime.pos hr
  have htlt := reduce_lt hc.prime hc.basePrime.pos ht
  have hrw : (BitVec.ofNat w r).toNat = r := by
    rw [BitVec.toNat_ofNat, Nat.mod_eq_of_lt (hrlt.trans hc.baseLt)]
  have htw : (BitVec.ofNat w t).toNat = t := by
    rw [BitVec.toNat_ofNat, Nat.mod_eq_of_lt (htlt.trans hc.baseLt)]
  have hon := (post_of_answers (onCurve_prime hc.prime r t) hf).mp hf1
  exact isCurvePoint_affine (by rwa [hrw]) (by rwa [htw]) (by rwa [hrw, htw])

/-- A P source that passes its tag check is a point of the curve. -/
theorem Inv.sourceP_isCurvePoint (h : Inv s) {i : RegIdx} {p : PointReg w} (hp : sourceP s i = .ok p) :
    IsCurvePoint s.curve p := by
  obtain ⟨hvalid, rfl⟩ := sourceP_eq_ok.mp hp
  exact h.isCurvePoint hvalid

/-- The characteristic that `FCHAR` caches is 1 or 2. -/
theorem Inv.fChar_one_or_two (h : Inv s) (hfv : s.fv = true) (hfp : s.fp = false) (hchv : s.chv = false)
    {v : Nat} (hv : fChar s.field (if s.chv then some s.fchr.toNat else none) = .ok v) :
    v = 1 ∨ v = 2 := by
  have hrel : s.field.rel ≠ 0 := fun h0 => (h.nonPrimeHasRelation hfv hfp).2 (BitVec.eq_of_toNat_eq h0)
  have hprime : s.field.prime = false := hfp
  simp only [fChar, hprime, hchv, charLoop_eq hprime hrel, Bool.false_eq_true, if_false,
    Except.ok.injEq] at hv
  split_ifs at hv
  · exact .inl hv.symm
  · exact .inr hv.symm

/-! ### The commands whose written values matter to the invariant -/

theorem execFldnew_gives (s : State w) (b : RegIdx) :
    ∃ r, execFldnew b s = s.command r ∧ Gives (Inv s) r (Writes (.fldnew b) s) := by
  refine ⟨_, rfl, .check fun htwo => ?_⟩
  have htwoLe : 2 ≤ (s.readX b).toNat := by have := of_decide_eq_true htwo; omega
  dsimp only
  split
  case isTrue hprime =>
    exact .ok (.field .nothing rfl
      ⟨htwoLe, readX_toNat_lt s b, by simpa using (isPrime_iff _).mp hprime, nofun⟩)
  case isFalse hprime =>
    split
    next rel hrel =>
      exact .ok (.field .nothing rfl ⟨htwoLe, readX_toNat_lt s b,
        by simpa using (isPrime_iff _).not.mp hprime, fun _ => ⟨rfl, defRel_bounds hrel⟩⟩)
    next => exact .raise

theorem execFldnewr_gives (s : State w) (b c : RegIdx) :
    ∃ r, execFldnewr b c s = s.command r ∧ Gives (Inv s) r (Writes (.fldnewr b c) s) := by
  refine ⟨_, rfl, .check fun _ => .check fun htwo => .check fun hrel => ?_⟩
  have htwoLe : 2 ≤ (s.readX b).toNat := by have := of_decide_eq_true htwo; omega
  refine .ok (.field .nothing rfl ⟨htwoLe, readX_toNat_lt s b, isPrime_iff _, fun hprime =>
    ⟨rfl, ?_, readX_toNat_lt s c⟩⟩)
  rw [hprime] at hrel
  simpa [Nat.pos_iff_ne_zero] using hrel

/-- The cache's write of `FCHAR` is one that `FCHAR` owns. -/
theorem writes_fillCharCache {a : RegIdx} (hfv : s.fv = true) {v : Nat}
    (hv : fChar s.field (if s.chv then some s.fchr.toNat else none) = .ok v) :
    Writes (.fchar a) s (fillCharCache s v) := by
  unfold fillCharCache
  split
  case isTrue hfill =>
    simp only [Bool.and_eq_true, Bool.not_eq_true'] at hfill
    obtain ⟨hfp, hchv⟩ := hfill
    exact .cache .nothing ⟨a, rfl⟩ hfv hfp fun hinv => hinv.fChar_one_or_two hfv hfp hchv hv
  case isFalse => exact .nothing

theorem execFchar_gives (s : State w) (a : RegIdx) :
    ∃ r, execFchar a s = s.command r ∧ Gives (Inv s) r (Writes (.fchar a) s) :=
  ⟨_, rfl, .check fun hfv => (noFallThrough_fChar _ _).andThen fun _ hv =>
    .commitX (writes_fillCharCache hfv hv) rfl⟩

theorem execEcnew_gives (s : State w) (b c : RegIdx) :
    ∃ r, execEcnew b c s = s.command r ∧ Gives (Inv s) r (Writes (.ecnew b c) s) := by
  refine ⟨_, rfl, .check fun hfv => .check fun hfp => (noFallThrough_reduce _ _).andThen fun _ ha =>
    (noFallThrough_reduce _ _).andThen fun _ hb => (noFallThrough_reduce _ _).andThen fun _ hd =>
    .check fun hd0 => .ok (.curve .nothing rfl hfv hfp fun hinv => ?_)⟩
  have hbase := hinv.baseAtLeastTwo hfv
  exact isNewCurve_of_checks hfp (by omega) ha hb hd (of_decide_eq_true hd0)

theorem execEcpoint_gives (s : State w) (a b c : RegIdx) :
    ∃ r, execEcpoint a b c s = s.command r ∧ Gives (Inv s) r (Writes (.ecpoint a b c) s) :=
  ⟨_, rfl, .check fun hcv => .check fun _ => .check fun _ =>
    (noFallThrough_reduce _ _).andThen fun _ hr => (noFallThrough_reduce _ _).andThen fun _ ht =>
    (noFallThrough_onCurve _ _ _).andThen fun _ hon => .check fun hyes =>
    .ok (.pointReg .nothing rfl hcv fun hinv => isCurvePoint_of_checks hinv hcv hr ht hon hyes)⟩

/-- A command's last two phases with one P destination, for a pure function that answers with a point
of the curve under the invariant. -/
theorem Gives.commitPoint {i : Instr} {a : RegIdx} {x : Alg (PointReg w)} (hcv : s.cv = true)
    (hd : pDests i = [a]) (hx : Inv s → ∃ q, x = .ok q ∧ IsCurvePoint s.curve q) :
    Gives (Inv s) (x >>= fun q => pure (s.writeP a q)) (Writes i s) :=
  .after (fun hinv => .of_answers (hx hinv)) fun _ hq =>
    .ok (.pointReg .nothing hd hcv fun hinv => post_of_answers (hx hinv) hq)

theorem execEcadd_gives (s : State w) (a b c : RegIdx) :
    ∃ r, execEcadd a b c s = s.command r ∧ Gives (Inv s) r (Writes (.ecadd a b c) s) :=
  ⟨_, rfl, .check fun hcv => (noFallThrough_sourceP _ _).andThen fun _ hp =>
    (noFallThrough_sourceP _ _).andThen fun _ hq => .commitPoint hcv rfl fun hinv =>
    pAdd_onCurve (hinv.isPrimeCurve hcv) (hinv.sourceP_isCurvePoint hp) (hinv.sourceP_isCurvePoint hq)⟩

theorem execEcneg_gives (s : State w) (a b : RegIdx) :
    ∃ r, execEcneg a b s = s.command r ∧ Gives (Inv s) r (Writes (.ecneg a b) s) :=
  ⟨_, rfl, .check fun hcv => (noFallThrough_sourceP _ _).andThen fun _ hp =>
    .commitPoint hcv rfl fun hinv => pNeg_onCurve (hinv.isPrimeCurve hcv) (hinv.sourceP_isCurvePoint hp)⟩

theorem execEcmul_gives (s : State w) (a b c : RegIdx) :
    ∃ r, execEcmul a b c s = s.command r ∧ Gives (Inv s) r (Writes (.ecmul a b c) s) :=
  ⟨_, rfl, .check fun hcv => (noFallThrough_sourceP _ _).andThen fun _ hp =>
    (noFallThrough_checkOnCurve _ _).andThen fun _ _ => .check fun _ =>
    .commitPoint hcv rfl fun hinv =>
      pMul_onCurve (hinv.isPrimeCurve hcv) (hinv.sourceP_isCurvePoint hp) _⟩

end

/-! ### Every command -/

/-- Every command ends the computation of its writes, which owns what it writes and, under the
invariant, does not reach the fall-through of the addition law. -/
theorem exec_gives (i : Instr) (s : State) :
    ∃ r, exec i s = s.command r ∧ Gives (Inv s) r (Writes i s) := by
  cases i with
  | nop => exact ⟨_, rfl, .ok .nothing⟩
  | powmod a b c d =>
    exact ⟨_, rfl, .check fun _ => .check fun _ => .check fun _ => .commitX .nothing rfl⟩
  | redpoly a b c => exact ⟨_, rfl, .check fun _ => .check fun _ => .commitX .nothing rfl⟩
  | gcd a b c => exact ⟨_, rfl, .check fun _ => .check fun _ => .commitX .nothing rfl⟩
  | xgcd a b c d e =>
    exact ⟨_, rfl, .check fun _ => .check fun _ => .check fun _ => .check fun _ => .check fun _ =>
      .commitX3 .nothing rfl⟩
  | fldnew b => exact execFldnew_gives s b
  | fldnewr b c => exact execFldnewr_gives s b c
  | fred a b =>
    exact ⟨_, rfl, .check fun _ => (noFallThrough_reduce _ _).andThen fun _ _ => .commitX .nothing rfl⟩
  | fadd a b c =>
    exact ⟨_, rfl, .check fun _ => (noFallThrough_fAdd _ _ _).andThen fun _ _ => .commitX .nothing rfl⟩
  | fmul a b c =>
    exact ⟨_, rfl, .check fun _ => (noFallThrough_reduce _ _).andThen fun _ _ => .commitX .nothing rfl⟩
  | fpow a b c => exact ⟨_, rfl, .check fun _ => .check fun _ => .check fun _ => .commitX .nothing rfl⟩
  | fneg a b =>
    exact ⟨_, rfl, .check fun _ => (noFallThrough_fNeg _ _).andThen fun _ _ => .commitX .nothing rfl⟩
  | finv a b =>
    exact ⟨_, rfl, .check fun _ => (noFallThrough_fInv _ _).andThen fun _ _ => .commitX .nothing rfl⟩
  | fdiv a b c =>
    exact ⟨_, rfl, .check fun _ => (noFallThrough_fDiv _ _ _).andThen fun _ _ => .commitX .nothing rfl⟩
  | fsqrt a b c =>
    exact ⟨_, rfl, .check fun _ => .check fun _ => .check fun _ => .check fun _ =>
      (noFallThrough_fSqrt _ _).andThen fun _ _ => .commitX2 .nothing rfl⟩
  | fchar a => exact execFchar_gives s a
  | ecnew b c => exact execEcnew_gives s b c
  | ecpoint a b c => exact execEcpoint_gives s a b c
  | ecchk b c =>
    exact ⟨_, rfl, .check fun _ => .check fun _ => .check fun _ =>
      (noFallThrough_reduce _ _).andThen fun _ _ => (noFallThrough_reduce _ _).andThen fun _ _ =>
      (noFallThrough_onCurve _ _ _).andThen fun _ _ => .ok (.flag .nothing rfl)⟩
  | ecinf a =>
    exact ⟨_, rfl, .check fun hcv => .ok (.pointReg .nothing rfl hcv fun _ => isCurvePoint_inf _)⟩
  | ecadd a b c => exact execEcadd_gives s a b c
  | ecneg a b => exact execEcneg_gives s a b
  | ecmul a b c => exact execEcmul_gives s a b c
  | ecget a b c =>
    exact ⟨_, rfl, .check fun _ => .check fun _ => (noFallThrough_sourceP _ _).andThen fun _ _ =>
      .commitX2 (.flag .nothing rfl) rfl⟩
  | eceq b c =>
    exact ⟨_, rfl, .check fun _ => (noFallThrough_sourceP _ _).andThen fun _ _ =>
      (noFallThrough_sourceP _ _).andThen fun _ _ => .ok (.flag .nothing rfl)⟩

/-- Everything the end of a command can be: its writes and success, a typed error, or fatal, with cause
1 under the invariant (60_exceptions R180, R187). -/
theorem exec_cases {i : Instr} {s t : State} (h : exec i s = .next t) :
    (∃ u, Writes i s u ∧ t = u.endSuccess) ∨ (∃ e, t = s.endTyped e) ∨
      (∃ c, t = s.endFatal c ∧ (Inv s → c = .negativeNonPrimeReduce)) := by
  obtain ⟨r, hr, hwrites, hfall⟩ := exec_gives i s
  obtain rfl := command_eq_next.mp (hr.symm.trans h)
  rcases finish_cases s r with ⟨u, hu, hend⟩ | ⟨e, -, hend⟩ | ⟨c, hc, hend⟩
  · exact .inl ⟨u, hwrites u hu, hend⟩
  · exact .inr (.inl ⟨e, hend⟩)
  · refine .inr (.inr ⟨c, hend, fun hinv => ?_⟩)
    cases c with
    | negativeNonPrimeReduce => rfl
    | addCaseFallThrough => exact absurd hc (hfall hinv)

end Sys2Proof.Machine
end

section
/-!
PROOFS of the state family, sixth layer: the invariant along a step, and the frame of a command, both read
off from the writes of a command.
-/
namespace Sys2Proof.Machine

section
variable {w : Nat} {i : Instr} {s t : State w}

/-! ### The invariant -/

/-- The writes of a command leave `STATE`, which its end sets. -/
theorem Writes.phase_eq (h : Writes i s t) : t.phase = s.phase := by
  induction h with
  | nothing => rfl
  | dataReg _ _ ih | pointReg _ _ _ _ ih | flag _ _ ih | field _ _ _ ih | curve _ _ _ _ _ ih
  | cache _ _ _ _ _ ih => exact ih

/-- The writes of a command keep the invariant. -/
theorem Inv.writes (hinv : Inv s) (h : Writes i s t) : Inv t := by
  induction h with
  | nothing => exact hinv
  | dataReg _ _ ih => exact ih.writeX _ _
  | pointReg _ _ hcv hq ih => exact ih.writeP _ hcv (hq ih)
  | flag _ _ ih => exact ih.setFlag _
  | cache _ _ hfv hfp hv ih => exact ih.setCharCache hfv hfp (hv ih)
  | field _ _ hf ih => exact ih.fieldCommit hf
  | curve _ _ hfv hfp hc ih => exact ih.curveCommit hfv hfp (hc ih)

/-! ### The frame -/

/-- A data register that is no destination is left. -/
theorem Writes.x_eq (h : Writes i s t) {j : RegIdx} (hj : j ∉ xDests i) : t.x[j] = s.x[j] := by
  induction h with
  | nothing => rfl
  | dataReg _ ha ih =>
    rw [writeX_x, getElem_set_reg, if_neg (by rintro rfl; exact hj ha), ih]
  | pointReg _ _ _ _ ih | flag _ _ ih | field _ _ _ ih | curve _ _ _ _ _ ih
  | cache _ _ _ _ _ ih => exact ih

/-- A point register that is no destination keeps its point. -/
theorem Writes.point_eq (h : Writes i s t) {j : RegIdx} (hj : j ∉ pDests i) :
    t.p[j].inf = s.p[j].inf ∧ t.p[j].r = s.p[j].r ∧ t.p[j].s = s.p[j].s := by
  induction h with
  | nothing => exact ⟨rfl, rfl, rfl⟩
  | pointReg _ hd _ _ ih =>
    rw [writeP_p, getElem_set_reg, if_neg (fun e => hj (by simp [hd, e]))]
    exact ih
  | dataReg _ _ ih | flag _ _ ih | cache _ _ _ _ _ ih => exact ih
  | field _ _ _ ih | curve _ _ _ _ _ ih => simpa using ih

/-- A point register that is no destination keeps its tag, but for construction. -/
theorem Writes.tag_eq (h : Writes i s t) {j : RegIdx} (hj : j ∉ pDests i)
    (hf : constructsField i = false) (hc : constructsCurve i = false) : t.p[j].tag = s.p[j].tag := by
  induction h with
  | nothing => rfl
  | pointReg _ hd _ _ ih =>
    rw [writeP_p, getElem_set_reg, if_neg (fun e => hj (by simp [hd, e]))]
    exact ih
  | dataReg _ _ ih | flag _ _ ih | cache _ _ _ _ _ ih => exact ih
  | field _ hi => simp [hi] at hf
  | curve _ hi => simp [hi] at hc

/-- The field is left but for field construction. -/
theorem Writes.field_eq (h : Writes i s t) (hf : constructsField i = false) :
    t.fv = s.fv ∧ t.fp = s.fp ∧ t.relv = s.relv ∧ t.fbase = s.fbase ∧ t.frel = s.frel := by
  induction h with
  | nothing => exact ⟨rfl, rfl, rfl, rfl, rfl⟩
  | pointReg _ _ _ _ ih | dataReg _ _ ih | flag _ _ ih | curve _ _ _ _ _ ih
  | cache _ _ _ _ _ ih => exact ih
  | field _ hi => simp [hi] at hf

/-- The cache is left but for field construction and `FCHAR`. -/
theorem Writes.cache_eq (h : Writes i s t) (hf : constructsField i = false) (hi : ∀ a, i ≠ .fchar a) :
    t.chv = s.chv ∧ t.fchr = s.fchr := by
  induction h with
  | nothing => exact ⟨rfl, rfl⟩
  | pointReg _ _ _ _ ih | dataReg _ _ ih | flag _ _ ih | curve _ _ _ _ _ ih => exact ih
  | field _ hi => simp [hi] at hf
  | cache _ ha => obtain ⟨a, ha⟩ := ha; exact absurd ha (hi a)

/-- The curve is left but for construction. -/
theorem Writes.curve_eq (h : Writes i s t) (hf : constructsField i = false)
    (hc : constructsCurve i = false) : t.cv = s.cv ∧ t.ca = s.ca ∧ t.cb = s.cb := by
  induction h with
  | nothing => exact ⟨rfl, rfl, rfl⟩
  | pointReg _ _ _ _ ih | dataReg _ _ ih | flag _ _ ih | cache _ _ _ _ _ ih => exact ih
  | field _ hi => simp [hi] at hf
  | curve _ hi => simp [hi] at hc

/-- `FLAG` is left but for the commands that write it. -/
theorem Writes.flag_eq (h : Writes i s t) (hf : writesFlag i = false) : t.flag = s.flag := by
  induction h with
  | nothing => rfl
  | pointReg _ _ _ _ ih | dataReg _ _ ih | field _ _ _ ih | curve _ _ _ _ _ ih
  | cache _ _ _ _ _ ih => exact ih
  | flag _ hi => simp [hi] at hf

/-- `CTRL`, the latch and the host's side are always left. -/
theorem Writes.side_eq (h : Writes i s t) :
    t.verbose = s.verbose ∧ t.cmd = s.cmd ∧ t.port = s.port ∧ t.reply = s.reply := by
  induction h with
  | nothing => exact ⟨rfl, rfl, rfl, rfl⟩
  | pointReg _ _ _ _ ih | dataReg _ _ ih | flag _ _ ih | field _ _ _ ih | curve _ _ _ _ _ ih
  | cache _ _ _ _ _ ih => exact ih

end

/-- A command that runs in a state of the invariant, outside the fatal state, keeps the invariant. -/
theorem Inv.exec {s t : State} (hinv : Inv s) (hs : s.phase ≠ .fatal) {i : Instr}
    (h : exec i s = .next t) : Inv t := by
  rcases exec_cases h with ⟨u, hu, rfl⟩ | ⟨e, rfl⟩ | ⟨c, rfl, hc⟩
  · exact (hinv.writes hu).endSuccess (hu.phase_eq ▸ hs)
  · exact hinv.endTyped hs e
  · rw [hc hinv]; exact hinv.endFatal

/-- The completion of the command in flight keeps the invariant, whatever word is latched. -/
theorem Inv.runCommand {s t : State} (hinv : Inv s) (hs : s.phase = .busy)
    (h : runCommand s = .next t) : Inv t := by
  have hfatal : s.phase ≠ .fatal := by simp [hs]
  unfold Machine.runCommand at h
  split at h
  next i _ => exact hinv.exec hfatal h
  next => cases h; exact hinv.endTyped hfatal _

/-- Every step keeps the invariant: a host operation, the completion of a command, or nothing. -/
theorem Inv.step {s t : State} (hinv : Inv s) (h : step s = .next t) : Inv t := by
  rcases step_cases s with ⟨q, rest, -, -, hstep⟩ | ⟨-, hbusy, hstep⟩ | ⟨-, -, hstep⟩
  · cases hstep.symm.trans h
    have hrest : Inv { s with port := rest } := { hinv with }
    exact hrest.hostStep q.op
  · exact hinv.runCommand hbusy (hstep.symm.trans h)
  · cases hstep.symm.trans h
    exact hinv

end Sys2Proof.Machine

section
open Sys2Proof Sys2Proof.Machine

/-- Settles O28: every operation of a step keeps the invariant, the writes of a command included. -/
theorem everyStepKeepsTheInvariant : Obligations.EveryStepKeepsTheInvariant :=
  fun _ _ hinv hstep => hinv.step hstep

/-- Settles O21: the frame of the writes, of a typed error and of a fatal end. -/
theorem commandFrame : Obligations.CommandFrame := by
  intro i s t h
  rcases exec_cases h with ⟨u, hu, rfl⟩ | ⟨e, rfl⟩ | ⟨c, rfl, -⟩
  · exact ⟨fun j hj => hu.x_eq hj, fun j hj => hu.point_eq hj, fun j hj hf hc => hu.tag_eq hj hf hc,
      hu.field_eq, hu.cache_eq, hu.curve_eq, hu.flag_eq, hu.side_eq⟩
  · simp
  · simp

end
end

section
/-!
PROOFS of the state family, seventh layer: what no command reads (10_state R28, R33). A command run from a
state with another `VERBOSE` or another `FLAG` does the same, because its computation is the same, write
for write.
-/
namespace Sys2Proof.Machine

/-- A change of the two fields that no command reads: `VERBOSE` and `FLAG`. -/
def State.mapUnread {w : Nat} (onVerbose onFlag : Bool → Bool) (s : State w) : State w :=
  { s with verbose := onVerbose s.verbose, flag := onFlag s.flag }

/-- The second computation answers what the first one does, with `g` applied, and stops where it stops. -/
def Follows {α : Type} (g : α → α) (x y : Alg α) : Prop := y = g <$> x

section
variable {α β : Type} {g : α → α}

theorem Follows.ok (v : α) : Follows g (.ok v) (.ok (g v)) := rfl

theorem Follows.raise (e : TypedError) : Follows g (raise e) (raise e) := rfl

theorem Follows.bind {x : Alg β} {f f' : β → Alg α} (h : ∀ v, Follows g (f v) (f' v)) :
    Follows g (x >>= f) (x >>= f') := by
  cases x with
  | error e => rfl
  | ok v => exact h v

theorem Follows.ite {c : Prop} [Decidable c] {x x' y y' : Alg α} (hx : Follows g x x')
    (hy : Follows g y y') : Follows g (if c then x else y) (if c then x' else y') := by
  split
  · exact hx
  · exact hy

end

section
variable {w : Nat} {onVerbose onFlag : Bool → Bool}

theorem Follows.commitX (s : State w) (a : RegIdx) (v : Int) :
    Follows (State.mapUnread onVerbose onFlag) (commitX s a v)
      (Machine.commitX (s.mapUnread onVerbose onFlag) a v) :=
  .bind fun _ => .ok _

theorem Follows.commitX2 (s : State w) (a b : RegIdx) (v u : Int) :
    Follows (State.mapUnread onVerbose onFlag) (commitX2 s a b v u)
      (Machine.commitX2 (s.mapUnread onVerbose onFlag) a b v u) :=
  .bind fun _ => .bind fun _ => .ok _

theorem Follows.commitX3 (s : State w) (a b c : RegIdx) (v u z : Int) :
    Follows (State.mapUnread onVerbose onFlag) (commitX3 s a b c v u z)
      (Machine.commitX3 (s.mapUnread onVerbose onFlag) a b c v u z) :=
  .bind fun _ => .bind fun _ => .bind fun _ => .ok _

/-- The data registers are left. -/
theorem readX_mapUnread (s : State w) (i : RegIdx) :
    (s.mapUnread onVerbose onFlag).readX i = s.readX i := rfl

/-- The cache's write of `FCHAR` is the same write. -/
theorem fillCharCache_mapUnread (s : State w) (v : Nat) :
    fillCharCache (s.mapUnread onVerbose onFlag) v = (fillCharCache s v).mapUnread onVerbose onFlag := by
  have hcond : (s.mapUnread onVerbose onFlag).fp = s.fp ∧ (s.mapUnread onVerbose onFlag).chv = s.chv :=
    ⟨rfl, rfl⟩
  unfold fillCharCache
  rw [hcond.1, hcond.2]
  split <;> rfl

/-- A command whose computation follows ends in the same way. -/
theorem Follows.command {s t : State w} {r r' : Alg (State w)}
    (hr : Follows (State.mapUnread onVerbose onFlag) r r') (h : s.command r = .next t) :
    (s.mapUnread onVerbose onFlag).command r' = .next (t.mapUnread onVerbose onFlag) := by
  rw [command_eq_next] at h ⊢
  subst h
  rw [hr]
  rcases finish_cases s r with ⟨u, rfl, -⟩ | ⟨e, rfl, -⟩ | ⟨c, rfl, -⟩ <;> rfl

end

/-- From a state with another `VERBOSE`, or, for a command that does not write `FLAG`, another `FLAG`, a
command ends in the same way. -/
theorem exec_mapUnread {onVerbose onFlag : Bool → Bool} (i : Instr) {s t : State}
    (hflag : writesFlag i = true → onFlag = id) (h : exec i s = .next t) :
    exec i (s.mapUnread onVerbose onFlag) = .next (t.mapUnread onVerbose onFlag) := by
  cases i with
  | nop => exact Follows.command (.ok _) h
  | powmod a b c d => exact Follows.command (.bind fun _ => .bind fun _ => .bind fun _ => .commitX _ _ _) h
  | redpoly a b c => exact Follows.command (.bind fun _ => .bind fun _ => .commitX _ _ _) h
  | gcd a b c => exact Follows.command (.bind fun _ => .bind fun _ => .commitX _ _ _) h
  | xgcd a b c d e =>
    exact Follows.command (.bind fun _ => .bind fun _ => .bind fun _ => .bind fun _ => .bind fun _ =>
      .commitX3 ..) h
  | fldnew b =>
    refine Follows.command (.bind fun _ => .ite (.ok _) ?_) h
    rw [readX_mapUnread]
    cases Config.defRel (s.readX b).toNat with
    | none => exact .raise _
    | some rel => exact .ok _
  | fldnewr b c => exact Follows.command (.bind fun _ => .bind fun _ => .bind fun _ => .ok _) h
  | fred a b => exact Follows.command (.bind fun _ => .bind fun _ => .commitX ..) h
  | fadd a b c => exact Follows.command (.bind fun _ => .bind fun _ => .commitX ..) h
  | fmul a b c => exact Follows.command (.bind fun _ => .bind fun _ => .commitX ..) h
  | fpow a b c => exact Follows.command (.bind fun _ => .bind fun _ => .bind fun _ => .commitX ..) h
  | fneg a b => exact Follows.command (.bind fun _ => .bind fun _ => .commitX ..) h
  | finv a b => exact Follows.command (.bind fun _ => .bind fun _ => .commitX ..) h
  | fdiv a b c => exact Follows.command (.bind fun _ => .bind fun _ => .commitX ..) h
  | fsqrt a b c =>
    exact Follows.command (.bind fun _ => .bind fun _ => .bind fun _ => .bind fun _ => .bind fun _ =>
      .commitX2 ..) h
  | fchar a =>
    exact Follows.command (.bind fun _ => .bind fun v => fillCharCache_mapUnread s v ▸ .commitX ..) h
  | ecnew b c =>
    exact Follows.command (.bind fun _ => .bind fun _ => .bind fun _ => .bind fun _ => .bind fun _ =>
      .bind fun _ => .ok _) h
  | ecpoint a b c =>
    exact Follows.command (.bind fun _ => .bind fun _ => .bind fun _ => .bind fun _ => .bind fun _ =>
      .bind fun _ => .bind fun _ => .ok _) h
  | ecchk b c =>
    obtain rfl := hflag rfl
    exact Follows.command (.bind fun _ => .bind fun _ => .bind fun _ => .bind fun _ => .bind fun _ =>
      .bind fun _ => .ok _) h
  | ecinf a => exact Follows.command (.bind fun _ => .ok _) h
  | ecadd a b c =>
    exact Follows.command (.bind fun _ => .bind fun _ => .bind fun _ => .bind fun _ => .ok _) h
  | ecneg a b => exact Follows.command (.bind fun _ => .bind fun _ => .bind fun _ => .ok _) h
  | ecmul a b c =>
    exact Follows.command (.bind fun _ => .bind fun _ => .bind fun _ => .bind fun _ => .bind fun _ =>
      .ok _) h
  | ecget a b c =>
    obtain rfl := hflag rfl
    exact Follows.command (.bind fun _ => .bind fun _ => .bind fun _ => .commitX2 ..) h
  | eceq b c =>
    obtain rfl := hflag rfl
    exact Follows.command (.bind fun _ => .bind fun _ => .bind fun _ => .ok _) h

/-- A command that writes `FLAG` runs the same computation, to the same written state, whatever `FLAG`
holds. -/
theorem exec_flagWriter {i : Instr} (hi : writesFlag i = true) (s : State) :
    ∃ r, exec i s = s.command r ∧ ∀ f, exec i { s with flag := f } = { s with flag := f }.command r := by
  cases i with
  | ecchk b c => exact ⟨_, rfl, fun _ => rfl⟩
  | ecget a b c => exact ⟨_, rfl, fun _ => rfl⟩
  | eceq b c => exact ⟨_, rfl, fun _ => rfl⟩
  | _ => cases hi

end Sys2Proof.Machine
end

section
/-!
PROOFS of the state family, last layer: the host's turn, the bits of `STATUS` and `CTRL`, and the point
commands that complete; then the statements.
-/
namespace Sys2Proof.Machine

section
variable {w : Nat}

/-! ### The host's turn -/

/-- When a host operation is the next event, the step is that operation. -/
theorem step_hostTurn {s : State} {op : HostOp} {rest : List Request} (h : HostTurn s op rest) :
    step s = .next (hostStep op { s with port := rest }) := by
  obtain ⟨early, hport, hearly⟩ := h
  rcases step_cases s with ⟨q, tail, hq, -, hstep⟩ | ⟨hlate, hbusy, -⟩ | ⟨hempty, -, -⟩
  · cases hport.symm.trans hq
    exact hstep
  · exact absurd (hlate _ _ hport) (by simp [hearly hbusy])
  · exact absurd (hport.symm.trans hempty) nofun

/-- With no host operation to come and no command in flight, the step changes nothing. -/
theorem step_of_no_event {s : State} (hport : s.port = []) (hidle : s.phase ≠ .busy) :
    step s = .next s := by
  rcases step_cases s with ⟨q, tail, hq, -, -⟩ | ⟨-, hbusy, -⟩ | ⟨-, -, hstep⟩
  · exact absurd (hport.symm.trans hq) nofun
  · exact absurd hbusy hidle
  · exact hstep

/-- A host operation does the same whatever the latch holds, and leaves another latch only if it does
not set it: `HIssue`, the one that makes the block `BUSY`, and `HReset` set it. -/
theorem hostStep_withLatch (op : HostOp w) (s : State w) (c : CmdWord) :
    ∃ c', hostStep op { s with cmd := c } = { hostStep op s with cmd := c' } ∧
      (s.phase ≠ .busy → (hostStep op s).phase = .busy → c' = (hostStep op s).cmd) := by
  cases hop : op.acceptedIn s.phase
  case false =>
    rw [hostStep_not_accepted (s := { s with cmd := c }) hop, hostStep_not_accepted hop]
    exact ⟨c, rfl, fun hs hb => absurd hb hs⟩
  case true =>
    rw [hostStep_accepted (s := { s with cmd := c }) hop, hostStep_accepted hop]
    cases op with
    | writeX i neg mag | readX i | readP i | writeCTRL v => exact ⟨c, rfl, fun hs hb => absurd hb hs⟩
    | readCSR n => exact ⟨c, rfl, fun hs hb => absurd hb hs⟩
    | issue word => exact ⟨word, rfl, fun _ _ => rfl⟩
    | reset => exact ⟨_, rfl, fun _ _ => rfl⟩

/-! ### The words of `STATUS` and `CTRL` -/

/-- 10_state R33: bit 0 of `CTRL` is `VERBOSE`, and every other bit reads as 0. -/
theorem ctrlWord_getLsbD (s : State w) (k : Nat) :
    s.ctrlWord.getLsbD k = (decide (k = 0) && s.verbose) := by
  rw [State.ctrlWord, BitVec.getLsbD_append]
  cases k <;> simp

/-- 10_state R32: above the lowest byte, `STATUS` is `ERR`, `FCAUSE` and zeros. -/
theorem statusWord_extractLsb'_high (s : State w) {lo : Nat} (h : 8 ≤ lo) (len : Nat) :
    s.statusWord.extractLsb' lo len = (0#8 ++ s.fcause ++ s.err).extractLsb' (lo - 8) len := by
  unfold State.statusWord
  iterate 7 refine (BitVec.extractLsb'_append_eq_of_le (by omega)).trans ?_
  simp only [Nat.sub_sub, Nat.reduceAdd]

/-- 10_state R32: the one-bit fields of `STATUS`. -/
theorem statusWord_flags (s : State w) :
    s.statusWord.getLsbD 2 = s.fv ∧ s.statusWord.getLsbD 3 = s.fp ∧ s.statusWord.getLsbD 4 = s.relv ∧
      s.statusWord.getLsbD 5 = s.chv ∧ s.statusWord.getLsbD 6 = s.cv ∧ s.statusWord.getLsbD 7 = s.flag := by
  simp only [State.statusWord, BitVec.getLsbD_append, BitVec.getLsbD_ofBool]
  simp

/-- 10_state R32: the byte fields of `STATUS`. -/
theorem statusWord_bytes (s : State w) :
    s.statusWord.extractLsb' 8 8 = s.err ∧ s.statusWord.extractLsb' 16 8 = s.fcause ∧
      s.statusWord.extractLsb' 24 8 = 0#8 := by
  refine ⟨?_, ?_, ?_⟩ <;> rw [statusWord_extractLsb'_high _ (by decide)]
  · exact BitVec.extractLsb'_append_eq_right
  · exact (BitVec.extractLsb'_append_eq_of_le (by decide)).trans BitVec.extractLsb'_append_eq_right
  · exact (BitVec.extractLsb'_append_eq_of_le (by decide)).trans BitVec.extractLsb'_append_eq_left

/-! ### The commands that write `FLAG` -/

theorem writesFlag_iff (i : Instr) : writesFlag i = true ↔
    (∃ b c, i = .ecchk b c) ∨ (∃ a b c, i = .ecget a b c) ∨ (∃ b c, i = .eceq b c) := by
  cases i <;> simp [writesFlag]

/-- `FLAG` changes only where a command that writes it succeeds (10_state R28). -/
theorem flag_changes_only_on_success {i : Instr} {s t : State} (h : exec i s = .next t)
    (hne : t.flag ≠ s.flag) : writesFlag i = true ∧ t.err = 0 ∧ t.phase = .idle := by
  rcases exec_cases h with ⟨u, hu, rfl⟩ | ⟨e, rfl⟩ | ⟨c, rfl, -⟩
  · refine ⟨?_, rfl, rfl⟩
    by_contra hi
    exact hne (hu.flag_eq (by simpa using hi))
  · exact absurd rfl hne
  · exact absurd rfl hne

/-- A command that writes `FLAG` ends, from a state with another `FLAG`, in the same way: with the same
new `FLAG` on success, and with the old one otherwise. -/
theorem exec_withFlag_of_writesFlag {i : Instr} {s t : State} (hi : writesFlag i = true) (f : Bool)
    (h : exec i s = .next t) :
    exec i { s with flag := f } =
      .next { t with flag := if t.err = 0 ∧ t.phase = .idle then t.flag else f } := by
  obtain ⟨r, hr, hrf⟩ := exec_flagWriter hi s
  obtain rfl := command_eq_next.mp (hr.symm.trans h)
  rw [hrf, State.command]
  rcases finish_cases s r with ⟨u, rfl, -⟩ | ⟨e, rfl, -⟩ | ⟨c, rfl, -⟩
  · rfl
  · have hne : e.code ≠ 0 := (typedError_code_range e).1
    simp [State.endTyped, show e.code ≠ 0#8 from hne]
  · simp [State.endFatal]

/-! ### The point commands that complete (46_curve R157, R161) -/

/-- A `VALID` register is read as it stands. -/
theorem sourceP_of_valid {s : State w} {i : RegIdx} (h : s.p[i].tag = .valid) :
    sourceP s i = .ok s.p[i] :=
  sourceP_eq_ok.mpr ⟨h, rfl⟩

/-- `ECADD` of valid registers writes what the addition law answers. -/
theorem exec_ecadd_of_pAdd {s : State} {a b c : RegIdx} {q : PointReg} (hcv : s.cv = true)
    (hb : s.p[b].tag = .valid) (hc : s.p[c].tag = .valid) (hq : pAdd s.curve s.p[b] s.p[c] = .ok q) :
    exec (.ecadd a b c) s = .next (afterP s a q) := by
  change execEcadd a b c s = _
  simp only [execEcadd, requireCurve, hcv, require_true, sourceP_of_valid hb, sourceP_of_valid hc,
    alg_ok_bind, hq]
  rfl

/-- `ECMUL` of a valid register on the curve, by a scalar of at least 1, writes what double-and-add
answers. -/
theorem exec_ecmul_of_pMul {s : State} {a b c : RegIdx} {q : PointReg} (hcv : s.cv = true)
    (hb : s.p[b].tag = .valid) (hon : checkOnCurve s.curve s.p[b] = .ok ()) (hc : 1 ≤ s.readX c)
    (hq : pMul s.curve s.p[b] (s.readX c).toNat = .ok q) :
    exec (.ecmul a b c) s = .next (afterP s a q) := by
  change execEcmul a b c s = _
  simp only [execEcmul, requireCurve, hcv, require_true, sourceP_of_valid hb, hon, hc, decide_true,
    alg_ok_bind, hq]
  rfl

end
end Sys2Proof.Machine

section
open Sys2Proof Sys2Proof.Machine

/-- Settles O16: `CTRL` bit by bit, its write, its reset value, and the computation of a command, which
does not read it. -/
theorem verboseHasNoEffect : Obligations.VerboseHasNoEffect := by
  refine ⟨ctrlWord_getLsbD, ?_, rfl, ?_⟩
  · intro s v rest hidle hturn
    refine ⟨.done, ?_⟩
    rw [step_hostTurn hturn, hostStep_accepted (by simp [HostOp.acceptedIn, hidle])]
    rfl
  · intro i s t v h
    exact exec_mapUnread (onVerbose := fun _ => v) (onFlag := id) i (fun _ => rfl) h

/-- Settles O17: outside `BUSY` a step is a host operation, which does not read the latch, or nothing. -/
theorem commandLatchIsUnobservable : Obligations.CommandLatchIsUnobservable := by
  intro s t c hidle h
  rcases step_cases s with ⟨q, rest, hport, hearly, hstep⟩ | ⟨-, hbusy, -⟩ | ⟨hempty, -, hstep⟩
  · cases hstep.symm.trans h
    have hturn : HostTurn { s with cmd := c } q.op rest := ⟨q.early, hport, hearly⟩
    obtain ⟨c', hc', hlatch⟩ := hostStep_withLatch q.op { s with port := rest } c
    exact ⟨c', (step_hostTurn hturn).trans (congrArg _ hc'), hlatch hidle⟩
  · exact absurd hbusy hidle
  · cases hstep.symm.trans h
    exact ⟨c, step_of_no_event hempty hidle, fun hbusy => absurd hbusy hidle⟩

/-- Settles O22: `FLAG` is no input of a command's computation, and no write of the other commands. -/
theorem flagIsOnlyWritten : Obligations.FlagIsOnlyWritten := by
  constructor
  · intro i s t h hne
    obtain ⟨hi, hend⟩ := flag_changes_only_on_success h hne
    exact ⟨(writesFlag_iff i).mp hi, hend⟩
  · intro i s t f h
    by_cases hi : writesFlag i = true
    · simpa [hi] using exec_withFlag_of_writesFlag hi f h
    · rw [if_neg fun hwrites => hi hwrites.1]
      exact exec_mapUnread (onVerbose := id) (onFlag := fun _ => f) i (absurd · hi) h

/-- Settles O53: over a prime curve the addition law and double-and-add answer, with points of it. -/
theorem pointCommandsStayOnTheCurve : Obligations.PointCommandsStayOnTheCurve := by
  intro s a b c hinv hcv hb
  have hcurve := hinv.isPrimeCurve hcv
  have hpoint := hinv.isCurvePoint hb
  refine ⟨fun hc => ?_, fun hn => ?_⟩
  · obtain ⟨q, hq, hqc⟩ := pAdd_onCurve hcurve hpoint (hinv.isCurvePoint hc)
    exact ⟨q, exec_ecadd_of_pAdd hcv hb hc hq, hqc.valid, hqc.infinity, hqc.affine⟩
  · obtain ⟨q, hq, hqc⟩ := pMul_onCurve hcurve hpoint (s.readX c).toNat
    have hon := checkOnCurve_of_isCurvePoint hcurve hpoint
    exact ⟨q, exec_ecmul_of_pMul hcv hb hon hn hq, hqc.valid, hqc.infinity, hqc.affine⟩

/-- Settles O9: the fields of the reset state, and its two words. -/
theorem resetValues : Obligations.ResetValues := by
  refine ⟨fun i => ?_, fun i => ?_, by decide, by decide, rfl, rfl, rfl, rfl, rfl, rfl⟩
  · exact Vector.getElem_replicate ..
  · exact Vector.getElem_replicate ..

/-- Settles O13: the code of the state, the one-bit fields, and the bytes above them. -/
theorem statusWordLayout : Obligations.StatusWordLayout := by
  intro s
  obtain ⟨hfv, hfp, hrelv, hchv, hcv, hflag⟩ := statusWord_flags s
  refine ⟨?_, hfv, hfp, hrelv, hchv, hcv, hflag, statusWord_bytes s⟩
  have hcode : s.statusWord.extractLsb' 0 2 = s.phase.code := BitVec.extractLsb'_append_eq_right
  rw [hcode]
  cases s.phase <;> rfl

/-- Settles O27: every clause of the invariant at the reset values. -/
theorem invariantAtReset : Obligations.InvariantAtReset := inv_resetAt _

end
end

section
/-!
PROOFS of the memory family: the sequencer's turn (20_memory R57, 30_encoding R74), the operations of
the host port (R51 to R58) and the CSRs as the host reads them (10_state R29, R32); then the statements.
-/
namespace Sys2Proof.Machine

/-! ### The sequencer's turn -/

/-- At the sequencer's turn the step is the completion of the command in flight. -/
theorem step_sequencerTurn {s : State} (h : SequencerTurn s) : step s = runCommand s := by
  obtain ⟨hbusy, hlate⟩ := h
  rcases step_cases s with ⟨q, rest, hport, hearly, -⟩ | ⟨-, -, hstep⟩ | ⟨-, hnot, -⟩
  · exact absurd (hlate q rest hport) (by simp [hearly hbusy])
  · exact hstep
  · exact absurd hbusy hnot

/-- A latched word that decodes is run as the command it decodes to. -/
theorem runCommand_of_decode {s : State} {i : Instr} (h : decode s.cmd = .ok i) :
    runCommand s = exec i s := by
  rw [runCommand, h]

/-- A word that fits no row of the opcode map is illegal (30_encoding R74). -/
theorem decode_of_fits_no_row {c : CmdWord} (h : ∀ r ∈ opcodeRows, c &&& r.mask ≠ r.pattern) :
    ∃ e, decode c = .error e := by
  have hnone : opcodeRows.find? (·.fits c) = none :=
    List.find?_eq_none.mpr fun r hr hfits => h r hr (beq_iff_eq.mp hfits)
  simp only [decode, hnone]
  split
  · exact ⟨_, rfl⟩
  · exact ⟨_, rfl⟩

/-- A latched word that is illegal ends with `IllegalCommand`, whose code is 10 (60_exceptions R182). -/
theorem runCommand_of_illegal {s : State} {e : IllegalWord} (h : decode s.cmd = .error e) :
    runCommand s = .next (afterError s 10) := by
  rw [runCommand, h]
  rfl

section
variable {w : Nat}

/-! ### Host operations -/

/-- When the host operation that comes next is accepted, the step is its effect. -/
theorem step_hostTurn_accepted {s : State} {op : HostOp} {rest : List Request}
    (h : HostTurn s op rest) (hop : op.acceptedIn s.phase = true) :
    step s = .next (hostEffect op { s with port := rest }) :=
  (step_hostTurn h).trans (congrArg _ (hostStep_accepted hop))

/-- When the host operation that comes next is not accepted, the step only says so. -/
theorem step_hostTurn_not_accepted {s : State} {op : HostOp} {rest : List Request}
    (h : HostTurn s op rest) (hop : op.acceptedIn s.phase = false) :
    step s = .next { s with port := rest, reply := .notAccepted } :=
  (step_hostTurn h).trans (congrArg _ (hostStep_not_accepted hop))

/-- 20_memory R51: in `IDLE` every operation is accepted. -/
theorem acceptedIn_idle (op : HostOp w) : op.acceptedIn .idle = true := by
  cases op <;> rfl

/-- 70_reset_and_hazards R204: in `BUSY` a read of `STATUS` and the reset are accepted, nothing else. -/
theorem acceptedIn_busy_iff (op : HostOp w) :
    op.acceptedIn .busy = true ↔ op = .readCSR 0 ∨ op = .reset := by
  cases op <;> simp [HostOp.acceptedIn]

/-- 20_memory R53: the read of a register without negative zero answers what the register holds. -/
theorem hostEffect_readX {s : State w} {i : RegIdx} {d : SignMag w} (hd : s.x[i] = d)
    (hcanon : d.neg = true → d.mag ≠ 0) :
    hostEffect (.readX i) s = { s with reply := .dataReg d.neg d.mag } := by
  have hread : s.readX i = d.toInt := congrArg SignMag.toInt hd
  have hneg : decide (d.toInt < 0) = d.neg := by simp [SignMag.toInt_neg_iff (not_and.mpr hcanon)]
  rw [hostEffect, hread, hneg, SignMag.natAbs_toInt, BitVec.ofNat_toNat, BitVec.setWidth_eq]

/-! ### The CSRs -/

/-- 10_state R33: `CTRL` read as a number. -/
theorem ctrlWord_toNat (s : State w) : s.ctrlWord.toNat = if s.verbose then 1 else 0 := by
  cases h : s.verbose <;> simp [State.ctrlWord, h]

/-- 10_state R29: the numbers 7 to 15 are reserved and read as 0. -/
theorem readCSR_reserved (s : State w) {n : Fin 16} (hn : 7 ≤ n) : s.readCSR n = 0 := by
  obtain ⟨m, hlt⟩ := n
  obtain ⟨k, rfl⟩ : ∃ k, m = k + 7 := Nat.exists_eq_add_of_le' hn
  rfl

/-- Two bits appended at the low end, read as a number. -/
theorem toNat_append_two {n : Nat} (hi : BitVec n) (lo : BitVec 2) :
    (hi ++ lo).toNat = 4 * hi.toNat + lo.toNat := by
  rw [BitVec.toNat_append, ← Nat.shiftLeft_add_eq_or_of_lt lo.isLt, Nat.shiftLeft_eq, Nat.mul_comm]

/-- With the two lowest bits 0, adding 1 sets the lower of them. -/
theorem append_one_eq_append_zero_add_one {n : Nat} (hi : BitVec n) :
    hi ++ 1#2 = hi ++ 0#2 + 1#(n + 2) := by
  have hfits : 4 * hi.toNat + 1 < 2 ^ (n + 2) := toNat_append_two hi 1#2 ▸ (hi ++ 1#2).isLt
  have hone : 1 < 2 ^ (n + 2) := by omega
  apply BitVec.eq_of_toNat_eq
  simp only [BitVec.toNat_add, toNat_append_two, BitVec.toNat_ofNat, Nat.mod_eq_of_lt hone]
  exact (Nat.mod_eq_of_lt hfits).symm

/-- 10_state R32, 20_memory R55: `STATUS` of a busy block is its value in `IDLE` with `STATE`, the two
lowest bits, replaced by the code 1. -/
theorem statusWord_busy {s : State w} (h : s.phase = .busy) :
    s.statusWord = { s with phase := .idle }.statusWord + 1 := by
  unfold State.statusWord
  rw [h]
  exact append_one_eq_append_zero_add_one _

end
end Sys2Proof.Machine

section
open Sys2Proof Sys2Proof.Machine

/-- Settles O7: the sequencer's turn completes the latched command, which is the one it decodes to. -/
theorem stepRunsTheLatchedCommand : Obligations.StepRunsTheLatchedCommand :=
  fun _ _ hturn hdecode => (step_sequencerTurn hturn).trans (runCommand_of_decode hdecode)

/-- Settles O8: `HIssue` is accepted in `IDLE`; then it is the sequencer's turn, with a word that decodes
or one that fits no row. -/
theorem issueThenCommand : Obligations.IssueThenCommand := by
  intro s w rest hidle hturn
  refine ⟨_, rfl, step_hostTurn_accepted hturn (hidle ▸ acceptedIn_idle _), fun hlate => ?_⟩
  have hnext : SequencerTurn { s with cmd := w, phase := .busy, port := rest, reply := .done } :=
    ⟨rfl, hlate⟩
  constructor
  · intro i hdecode
    exact (step_sequencerTurn hnext).trans (runCommand_of_decode hdecode)
  · intro hillegal
    obtain ⟨e, hdecode⟩ := decode_of_fits_no_row hillegal
    exact (step_sequencerTurn hnext).trans (runCommand_of_illegal hdecode)

/-- Settles O10: `HReset` is accepted in every state, and its effect is the reset state. -/
theorem hostResetFromEveryState : Obligations.HostResetFromEveryState :=
  fun _ _ hturn => ⟨_, step_hostTurn_accepted hturn rfl⟩

/-- Settles O11: the write stores the canonical form, and the read answers a canonical form as held. -/
theorem hostDataRegisterAccess : Obligations.HostDataRegisterAccess := by
  intro s i neg mag rest
  constructor
  · intro hidle hturn
    exact step_hostTurn_accepted hturn (hidle ▸ acceptedIn_idle _)
  · intro hnotBusy hturn hheld
    constructor
    · rw [step_hostTurn_accepted hturn (by simp [HostOp.acceptedIn, hnotBusy]),
        hostEffect_readX (s := { s with port := rest }) hheld (ofParts_canonical neg mag)]
    · exact (congrArg SignMag.toInt hheld).trans (SignMag.toInt_ofParts neg mag)

/-- Settles O12: both reads are accepted outside `BUSY` and only answer; the answer, CSR by CSR. -/
theorem hostPointAndCsrReads : Obligations.HostPointAndCsrReads := by
  intro s rest hnotBusy
  constructor
  · intro i hturn
    exact step_hostTurn_accepted hturn (by simp [HostOp.acceptedIn, hnotBusy])
  · intro n hturn
    refine ⟨s.readCSR n, step_hostTurn_accepted hturn (by simp [HostOp.acceptedIn, hnotBusy]),
      ?_, ?_, ?_, ?_, ?_, ?_, ?_, readCSR_reserved s⟩
    · rintro rfl; rfl
    · rintro rfl; exact ctrlWord_toNat s
    all_goals rintro rfl; rfl

/-- Settles O14: in `BUSY` a read of `STATUS` is accepted, and only the reset besides. -/
theorem busyHostAccess : Obligations.BusyHostAccess := by
  intro s op rest hbusy hturn
  have haccepted := acceptedIn_busy_iff op
  rw [← hbusy] at haccepted
  constructor
  · rintro rfl
    exact ⟨step_hostTurn_accepted hturn (haccepted.mpr (.inl rfl)), statusWord_busy hbusy⟩
  · intro hstatus hreset
    refine step_hostTurn_not_accepted hturn (Bool.eq_false_iff.mpr fun hop => ?_)
    rcases haccepted.mp hop with rfl | rfl
    · exact hstatus rfl
    · exact hreset rfl

end
end

section
/-!
PROOFS of the encoding family: the opcode map read field by field (30_encoding R71 to R74, R79), the
encoder and the decoder against it, and the destination rule (R75); then the statements.
-/
namespace Sys2Proof

/-! ### The fields of a row -/

/-- R73: the row uses the 4-bit field whose lowest bit is bit `lo`, as its mask leaves the field open. -/
def Row.uses (r : Row) (lo : Nat) : Bool := r.mask.extractLsb' lo 4 == 0#4

/-- The value of a register field in the row's words: what is written there, or 0 in an unused field. -/
def Row.keep (r : Row) (lo : Nat) (x : RegIdx) : RegIdx := if r.uses lo then x else 0

theorem Row.keep_of_used (r : Row) {lo : Nat} (x : RegIdx) (h : r.uses lo = true) :
    r.keep lo x = x :=
  if_pos h

theorem Row.keep_of_unused (r : Row) {lo : Nat} (x : RegIdx) (h : r.uses lo = false) :
    r.keep lo x = 0 :=
  if_neg (Bool.eq_false_iff.mp h)

/-- The command that the row reads from a word. -/
def Row.read (r : Row) (w : CmdWord) : Instr :=
  r.build (regField w 20) (regField w 16) (regField w 12) (regField w 8) (regField w 4)

/-- Where the fields Z, E, D, C, B and A begin (R71). -/
def fieldPlaces : List Nat := [0, 4, 8, 12, 16, 20]

/-- R73: every row fixes the opcode and `Z`, and every other field either is open or must be 0. -/
theorem opcodeRows_regular : ∀ r ∈ opcodeRows,
    r.mask.extractLsb' 24 8 = BitVec.allOnes 8 ∧ r.uses 0 = false ∧
      ∀ lo ∈ fieldPlaces, r.pattern.extractLsb' lo 4 = 0#4 ∧
        (r.uses lo = false → r.mask.extractLsb' lo 4 = BitVec.allOnes 4) := by
  decide

/-- R79: the opcodes of the rows differ. -/
theorem opcodes_nodup : (opcodeRows.map fun r => r.pattern.extractLsb' 24 8).Nodup := by
  decide

/-! ### The fields of a word -/

/-- A bit of a word, read in the field it lies in. -/
theorem getLsbD_eq_field (w : CmdWord) (lo len k : Nat) (h : lo ≤ k ∧ k < lo + len) :
    w.getLsbD k = (w.extractLsb' lo len).getLsbD (k - lo) := by
  rw [BitVec.getLsbD_extractLsb', decide_eq_true (by omega), Bool.true_and, Nat.add_sub_cancel' h.1]

/-- A word is its opcode and its fields (R71). -/
theorem word_ext {w v : CmdWord} (hop : w.extractLsb' 24 8 = v.extractLsb' 24 8)
    (hfields : ∀ lo ∈ fieldPlaces, w.extractLsb' lo 4 = v.extractLsb' lo 4) : w = v := by
  apply BitVec.eq_of_getLsbD_eq
  intro k hk
  by_cases hhigh : 24 ≤ k
  · rw [getLsbD_eq_field w 24 8 k ⟨hhigh, hk⟩, hop, ← getLsbD_eq_field v 24 8 k ⟨hhigh, hk⟩]
  · have hplace : 4 * (k / 4) ∈ fieldPlaces := by
      have : k / 4 < 6 := by omega
      simp only [fieldPlaces, List.mem_cons, List.not_mem_nil]
      omega
    have hin : 4 * (k / 4) ≤ k ∧ k < 4 * (k / 4) + 4 := by omega
    rw [getLsbD_eq_field w _ 4 k hin, hfields _ hplace, ← getLsbD_eq_field v _ 4 k hin]

/-- A register field is 0 exactly when its bits are. -/
theorem regField_eq_zero {w : CmdWord} {lo : Nat} : regField w lo = 0 ↔ w.extractLsb' lo 4 = 0#4 :=
  ⟨fun h => BitVec.eq_of_toFin_eq h, fun h => congrArg BitVec.toFin h⟩

/-- The opcode of a packed word (R71). -/
theorem packWord_opcode (op : BitVec 8) (a b c d e : RegIdx) :
    (packWord op a b c d e).extractLsb' 24 8 = op := by
  apply BitVec.eq_of_getLsbD_eq
  intro k hk
  have hhigh (n : Nat) (hn : n ≤ 24) : ¬ 24 + k < n := by omega
  rw [BitVec.getLsbD_extractLsb', packWord_getLsbD]
  simp [hk, hhigh]

/-- The reserved bits `Z` of a packed word (R71). -/
theorem packWord_reserved (op : BitVec 8) (a b c d e : RegIdx) :
    (packWord op a b c d e).extractLsb' 0 4 = 0#4 := by
  apply BitVec.eq_of_getLsbD_eq
  intro k hk
  rw [BitVec.getLsbD_extractLsb', packWord_getLsbD]
  simp [hk]

/-- A word with `Z = 0` is the packing of its own fields. -/
theorem packWord_fields {w : CmdWord} (hz : w.extractLsb' 0 4 = 0#4) :
    packWord (w.extractLsb' 24 8) (regField w 20) (regField w 16) (regField w 12) (regField w 8)
      (regField w 4) = w := by
  obtain ⟨ha, hb, hc, hd, he⟩ := regField_packWord (w.extractLsb' 24 8) (regField w 20)
    (regField w 16) (regField w 12) (regField w 8) (regField w 4)
  refine word_ext (packWord_opcode ..) ?_
  simp only [fieldPlaces, List.forall_mem_cons]
  exact ⟨(packWord_reserved ..).trans hz.symm, BitVec.eq_of_toFin_eq he, BitVec.eq_of_toFin_eq hd,
    BitVec.eq_of_toFin_eq hc, BitVec.eq_of_toFin_eq hb, BitVec.eq_of_toFin_eq ha,
    List.forall_mem_nil _⟩

/-! ### The words of a row -/

section
variable {r : Row} {w : CmdWord}

/-- R73, R74: a word fits a row exactly when it has the row's opcode, and 0 in every field that the row
does not use. -/
theorem fits_iff (hr : r ∈ opcodeRows) : w &&& r.mask = r.pattern ↔
    w.extractLsb' 24 8 = r.pattern.extractLsb' 24 8 ∧
      ∀ lo ∈ fieldPlaces, r.uses lo = false → w.extractLsb' lo 4 = 0#4 := by
  obtain ⟨hopcode, -, hregular⟩ := opcodeRows_regular r hr
  have hmasked (lo : Nat) (hlo : lo ∈ fieldPlaces) :
      (w &&& r.mask).extractLsb' lo 4 = r.pattern.extractLsb' lo 4 ↔
        (r.uses lo = false → w.extractLsb' lo 4 = 0#4) := by
    obtain ⟨hpattern, hmask⟩ := hregular lo hlo
    rw [BitVec.extractLsb'_and, hpattern]
    cases huses : r.uses lo with
    | false =>
      rw [hmask huses, BitVec.and_allOnes]
      exact ⟨fun h _ => h, fun h => h rfl⟩
    | true => simp [beq_iff_eq.mp huses]
  have hop : (w &&& r.mask).extractLsb' 24 8 = w.extractLsb' 24 8 := by
    rw [BitVec.extractLsb'_and, hopcode, BitVec.and_allOnes]
  constructor
  · intro hfits
    exact ⟨hop.symm.trans (congrArg _ hfits), fun lo hlo => (hmasked lo hlo).mp (congrArg _ hfits)⟩
  · rintro ⟨hopw, hfields⟩
    exact word_ext (hop.trans hopw) fun lo hlo => (hmasked lo hlo).mpr (hfields lo hlo)

/-- R79: no word fits two rows. -/
theorem row_unique {q : Row} (hr : r ∈ opcodeRows) (hq : q ∈ opcodeRows)
    (hwr : w &&& r.mask = r.pattern) (hwq : w &&& q.mask = q.pattern) : r = q :=
  List.inj_on_of_nodup_map opcodes_nodup hr hq
    (((fits_iff hr).mp hwr).1.symm.trans ((fits_iff hq).mp hwq).1)

/-- R79: a word that fits a row is decoded by that row. -/
theorem decode_of_fits (hr : r ∈ opcodeRows) (hw : w &&& r.mask = r.pattern) :
    decode w = .ok (r.read w) := by
  have hfind : opcodeRows.find? (·.fits w) = some r := by
    cases h : opcodeRows.find? (·.fits w) with
    | none => exact absurd (beq_iff_eq.mpr hw) (List.find?_eq_none.mp h r hr)
    | some q =>
      have hq : w &&& q.mask = q.pattern := by simpa [Row.fits] using List.find?_some h
      rw [row_unique (List.mem_of_find?_eq_some h) hr hq hw]
  rw [decode, hfind]
  rfl

/-- A word that decodes fits the row that it is decoded by. -/
theorem fits_of_decode {i : Instr} (h : decode w = .ok i) :
    ∃ r ∈ opcodeRows, w &&& r.mask = r.pattern ∧ r.read w = i := by
  by_cases hfits : ∃ r ∈ opcodeRows, w &&& r.mask = r.pattern
  · obtain ⟨r, hr, hw⟩ := hfits
    exact ⟨r, hr, hw, Except.ok.inj ((decode_of_fits hr hw).symm.trans h)⟩
  · obtain ⟨e, he⟩ := Machine.decode_of_fits_no_row fun r hr hw => hfits ⟨r, hr, hw⟩
    exact nomatch he.symm.trans h

/-- In a word that fits a row, keeping the fields that the row uses changes no field. -/
theorem keep_of_fits (hr : r ∈ opcodeRows) (hw : w &&& r.mask = r.pattern) {lo : Nat}
    (hlo : lo ∈ fieldPlaces) : r.keep lo (regField w lo) = regField w lo := by
  cases huses : r.uses lo with
  | true => exact r.keep_of_used _ huses
  | false =>
    have hzero : regField w lo = 0 := regField_eq_zero.mpr (((fits_iff hr).mp hw).2 lo hlo huses)
    rw [hzero, r.keep_of_unused _ huses]

end

/-! ### The encoder against the opcode map -/

/-- R73: the encoder writes each command as its row has it: the row's opcode, the fields that the row
uses, and 0 elsewhere. -/
theorem encode_build : ∀ r ∈ opcodeRows, ∀ a b c d e : RegIdx,
    encode (r.build a b c d e) = packWord (r.pattern.extractLsb' 24 8) (r.keep 20 a) (r.keep 16 b)
      (r.keep 12 c) (r.keep 8 d) (r.keep 4 e) := by
  intro r hr a b c d e
  fin_cases hr <;> rfl

/-- A row builds its command from the fields that it uses. -/
theorem build_keep : ∀ r ∈ opcodeRows, ∀ a b c d e : RegIdx,
    r.build (r.keep 20 a) (r.keep 16 b) (r.keep 12 c) (r.keep 8 d) (r.keep 4 e) =
      r.build a b c d e := by
  intro r hr a b c d e
  fin_cases hr <;> rfl

/-- R73: every command is built by a row of the opcode map. -/
theorem exists_row_build (i : Instr) :
    ∃ r ∈ opcodeRows, ∃ a b c d e : RegIdx, r.build a b c d e = i := by
  have row (k : Fin 25) : opcodeRows[k] ∈ opcodeRows := List.getElem_mem _
  cases i with
  | nop => exact ⟨_, row 0, 0, 0, 0, 0, 0, rfl⟩
  | powmod a b c d => exact ⟨_, row 1, a, b, c, d, 0, rfl⟩
  | redpoly a b c => exact ⟨_, row 2, a, b, c, 0, 0, rfl⟩
  | gcd a b c => exact ⟨_, row 3, a, b, c, 0, 0, rfl⟩
  | xgcd a b c d e => exact ⟨_, row 4, a, b, c, d, e, rfl⟩
  | fldnew b => exact ⟨_, row 5, 0, b, 0, 0, 0, rfl⟩
  | fldnewr b c => exact ⟨_, row 6, 0, b, c, 0, 0, rfl⟩
  | fred a b => exact ⟨_, row 7, a, b, 0, 0, 0, rfl⟩
  | fadd a b c => exact ⟨_, row 8, a, b, c, 0, 0, rfl⟩
  | fmul a b c => exact ⟨_, row 9, a, b, c, 0, 0, rfl⟩
  | fpow a b c => exact ⟨_, row 10, a, b, c, 0, 0, rfl⟩
  | fneg a b => exact ⟨_, row 11, a, b, 0, 0, 0, rfl⟩
  | finv a b => exact ⟨_, row 12, a, b, 0, 0, 0, rfl⟩
  | fdiv a b c => exact ⟨_, row 13, a, b, c, 0, 0, rfl⟩
  | fsqrt a b c => exact ⟨_, row 14, a, b, c, 0, 0, rfl⟩
  | fchar a => exact ⟨_, row 15, a, 0, 0, 0, 0, rfl⟩
  | ecnew b c => exact ⟨_, row 16, 0, b, c, 0, 0, rfl⟩
  | ecpoint a b c => exact ⟨_, row 17, a, b, c, 0, 0, rfl⟩
  | ecchk b c => exact ⟨_, row 18, 0, b, c, 0, 0, rfl⟩
  | ecinf a => exact ⟨_, row 19, a, 0, 0, 0, 0, rfl⟩
  | ecadd a b c => exact ⟨_, row 20, a, b, c, 0, 0, rfl⟩
  | ecneg a b => exact ⟨_, row 21, a, b, 0, 0, 0, rfl⟩
  | ecmul a b c => exact ⟨_, row 22, a, b, c, 0, 0, rfl⟩
  | ecget a b c => exact ⟨_, row 23, a, b, c, 0, 0, rfl⟩
  | eceq b c => exact ⟨_, row 24, 0, b, c, 0, 0, rfl⟩

section
variable {r : Row} (hr : r ∈ opcodeRows)
include hr

/-- A word that fits a row is the encoding of the command that the row reads from it. -/
theorem encode_read {w : CmdWord} (hw : w &&& r.mask = r.pattern) : encode (r.read w) = w := by
  obtain ⟨hop, hfields⟩ := (fits_iff hr).mp hw
  have hz : w.extractLsb' 0 4 = 0#4 := hfields 0 (by decide) (opcodeRows_regular r hr).2.1
  rw [Row.read, encode_build r hr, keep_of_fits hr hw (by decide), keep_of_fits hr hw (by decide),
    keep_of_fits hr hw (by decide), keep_of_fits hr hw (by decide), keep_of_fits hr hw (by decide),
    ← hop, packWord_fields hz]

/-- The register fields that the encoder writes for a row's command. -/
theorem regField_encode_build (a b c d e : RegIdx) :
    regField (encode (r.build a b c d e)) 20 = r.keep 20 a ∧
      regField (encode (r.build a b c d e)) 16 = r.keep 16 b ∧
      regField (encode (r.build a b c d e)) 12 = r.keep 12 c ∧
      regField (encode (r.build a b c d e)) 8 = r.keep 8 d ∧
      regField (encode (r.build a b c d e)) 4 = r.keep 4 e := by
  rw [encode_build r hr]
  exact regField_packWord ..

/-- The encoding of a row's command fits the row. -/
theorem encode_build_fits (a b c d e : RegIdx) :
    encode (r.build a b c d e) &&& r.mask = r.pattern := by
  obtain ⟨ha, hb, hc, hd, he⟩ := regField_encode_build hr a b c d e
  rw [fits_iff hr]
  constructor
  · rw [encode_build r hr, packWord_opcode]
  · simp only [fieldPlaces, List.forall_mem_cons, ← regField_eq_zero, ha, hb, hc, hd, he]
    have hz : regField (encode (r.build a b c d e)) 0 = 0 := by
      rw [encode_build r hr, regField_eq_zero, packWord_reserved]
    exact ⟨fun _ => hz, r.keep_of_unused e, r.keep_of_unused d, r.keep_of_unused c,
      r.keep_of_unused b, r.keep_of_unused a, List.forall_mem_nil _⟩

/-- A row reads its command back from the encoding. -/
theorem read_encode_build (a b c d e : RegIdx) :
    r.read (encode (r.build a b c d e)) = r.build a b c d e := by
  obtain ⟨ha, hb, hc, hd, he⟩ := regField_encode_build hr a b c d e
  rw [Row.read, ha, hb, hc, hd, he, build_keep r hr]

end

/-- Every command is decoded from its encoding. -/
theorem decode_encode (i : Instr) : decode (encode i) = .ok i := by
  obtain ⟨r, hr, a, b, c, d, e, rfl⟩ := exists_row_build i
  rw [decode_of_fits hr (encode_build_fits hr a b c d e), read_encode_build hr]

end Sys2Proof

namespace Sys2Proof.Machine

/-! ### Equal destinations -/

/-- A check of two destinations ends with `IllegalCommand` when they are equal, or when what comes after
the check does. -/
theorem requireDistinct_bind_illegal {α : Type} {i j : RegIdx} {f : Unit → Alg α}
    (h : i = j ∨ f () = raise .illegalCommand) :
    (requireDistinct i j >>= f) = raise .illegalCommand := by
  by_cases hij : i = j
  · simp [requireDistinct, hij]
  · rw [requireDistinct, bne_iff_ne.mpr hij]
    exact h.resolve_left hij

/-- A command that raises `IllegalCommand` sets `ERR` to its code, 10 (60_exceptions R182). -/
theorem command_of_illegal {w : Nat} {s : State w} {r : Alg (State w)}
    (h : r = raise .illegalCommand) : s.command r = .next (afterError s 10) := by
  rw [h]
  rfl

end Sys2Proof.Machine

section
open Sys2Proof Sys2Proof.Machine

/-- Settles O1: the encoding fits the row that builds the command, and that row reads it back. -/
theorem decodeOfEncode : Obligations.DecodeOfEncode := decode_encode

/-- Settles O2: a legal word fits the row that decodes it, so it has no bit outside the row's fields. -/
theorem encodeOfDecode : Obligations.EncodeOfDecode := by
  intro w i hdecode
  obtain ⟨r, hr, hfits, rfl⟩ := fits_of_decode hdecode
  exact encode_read hr hfits

/-- Settles O3: the row that fits is the only one, as the opcodes differ, so the decoder finds it. -/
theorem decodeFollowsTheTable : Obligations.DecodeFollowsTheTable :=
  ⟨fun _ _ hr hfits => decode_of_fits hr hfits, fun _ hillegal => decode_of_fits_no_row hillegal,
    by decide, fun _ _ hr _ hq hwr hwq => row_unique hr hq hwr hwq⟩

/-- Settles O5: the sequencer's turn, with a latched word that does not decode. -/
theorem illegalWordIsATypedError : Obligations.IllegalWordIsATypedError := by
  intro s hturn hillegal
  obtain ⟨e, hdecode⟩ := decode_of_fits_no_row hillegal
  exact (step_sequencerTurn hturn).trans (runCommand_of_illegal hdecode)

/-- Settles O4: each word is the encoding of its command. -/
theorem specWordsDecode : Obligations.SpecWordsDecode :=
  ⟨decode_encode .nop, decode_encode (.powmod 0 1 2 3), decode_encode (.xgcd 0 1 2 3 4),
    decode_encode (.fldnew 13), decode_encode (.fsqrt 7 8 5), decode_encode (.ecmul 1 0 5),
    decode_encode (.eceq 2 3)⟩

/-- Settles O6: three commands have more than one destination, and check them before all else. -/
theorem equalDestinationsAreIllegal : Obligations.EqualDestinationsAreIllegal := by
  intro i s hill
  cases i with
  | xgcd a b c d e =>
    have hequal : a = b ∨ a = c ∨ b = c := by
      simpa [Instr.wellFormed, or_iff_not_imp_left] using hill
    exact command_of_illegal <| requireDistinct_bind_illegal <| hequal.imp_right fun hrest =>
      requireDistinct_bind_illegal <| hrest.imp_right fun hbc =>
        requireDistinct_bind_illegal (.inl hbc)
  | fsqrt a b c =>
    exact command_of_illegal (requireDistinct_bind_illegal (.inl (by simpa [Instr.wellFormed] using hill)))
  | ecget a b c =>
    exact command_of_illegal (requireDistinct_bind_illegal (.inl (by simpa [Instr.wellFormed] using hill)))
  | _ => cases hill

end
end

section
open Sys2Proof Sys2Proof.Machine

/-- Settles O32: `NOP` is the command whose writes leave the state as it is, so all that it does is to
end in success. -/
theorem nopClearsErr : Obligations.NopClearsErr := by
  intro s
  show s.command (.ok s) = .next s.endSuccess
  exact command_eq_next.mpr (finish_ok s s).symm

end

section
/-!
PROOFS of the modexp family: `POWMOD` (41_modexp R95, R96). The bit loop computes the power, and the power
always fits, because `pow_mod` never exceeds its modulus, which is in a register itself.
-/
namespace Sys2Proof.Machine

variable {w : Nat}

/-! ### Checks that pass -/

/-- An X source that is not negative passes its check (60_exceptions R185). -/
theorem requireNonneg_of_nonneg {v : Int} (h : 0 ≤ v) : requireNonneg v = .ok () :=
  require_eq_ok.mpr (decide_eq_true h)

/-- A positive X source passes its check (60_exceptions R185). -/
theorem requirePositive_of_pos {v : Int} (h : 0 < v) : requirePositive v = .ok () :=
  require_eq_ok.mpr (decide_eq_true h)

/-- A command with one X destination whose result fits has the write of that result as its one effect. -/
theorem command_commitX {s : State w} {a : RegIdx} {v : Int} (h : v.natAbs < 2 ^ w) :
    s.command (commitX s a v) = .next (afterX s a v) := by
  rw [commitX_eq_ok.mpr ⟨h, rfl⟩]
  rfl

/-! ### `pow_mod` on the values of data registers -/

/-- `pow_mod` does not exceed a positive modulus; exponent 0 reaches modulus 1. -/
theorem powMod_le (b e : Nat) {m : Nat} (hm : 0 < m) : powMod b e m ≤ m := by
  rw [powMod_eq]
  split
  · exact hm
  · exact (Nat.mod_lt _ hm).le

/-- On operands that are not negative `pow_mod` is the power as an integer. -/
theorem powMod_toNat {b e m : Int} (hb : 0 ≤ b) (he : 0 ≤ e) (hm : 0 ≤ m) :
    (powMod b.toNat e.toNat m.toNat : Int) = if e = 0 then 1 else b ^ e.toNat % m := by
  lift b to Nat using hb
  lift e to Nat using he
  lift m to Nat using hm
  simp only [Int.toNat_natCast, powMod_eq, Int.natCast_eq_zero]
  push_cast
  rfl

/-- `POWMOD` of operands that pass their checks writes `pow_mod` of them, which fits. -/
theorem exec_powmod {s : State} {a b c d : RegIdx} (hb : 0 ≤ s.readX b) (hc : 0 ≤ s.readX c)
    (hd : 0 < s.readX d) :
    exec (.powmod a b c d) s =
      .next (afterX s a (powMod (s.readX b).toNat (s.readX c).toNat (s.readX d).toNat)) := by
  have hfits : powMod (s.readX b).toNat (s.readX c).toNat (s.readX d).toNat < 2 ^ Config.W :=
    (powMod_le _ _ (by omega)).trans_lt (readX_toNat_lt s d)
  change execPowmod a b c d s = _
  simp only [execPowmod, requireNonneg_of_nonneg hb, requireNonneg_of_nonneg hc,
    requirePositive_of_pos hd, alg_ok_bind]
  exact command_commitX hfits

end Sys2Proof.Machine

section
open Sys2Proof Sys2Proof.Machine

/-- Settles O33: `POWMOD` writes `pow_mod` of its operands, which is the power as an integer. -/
theorem powmodWritesThePower : Obligations.PowmodWritesThePower := by
  intro s a b c d hb hc hd
  rw [exec_powmod hb hc hd, powMod_toNat hb hc hd.le]

end
end

section
/-!
PROOFS of the modred family: `REDPOLY` (42_modred R100, R101). The carry-less product is additive, so each
turn of the XOR-shift loop, which subtracts `rel` times a power of `x`, keeps the remainder and adds that
power to the quotient; and it shortens the polynomial, so the loop ends below the degree of `rel`.
-/
namespace Sys2Proof.Machine

variable {w : Nat}

/-! ### Bit lengths (00_scope R11) -/

/-- The bit length is Mathlib's `Nat.size`. -/
theorem bitlen_eq_size (v : Nat) : bitlen v = v.size :=
  eq_of_forall_ge_iff fun _ => bitlen_le_iff.trans Nat.size_le.symm

theorem bitlen_pos {v : Nat} : 0 < bitlen v ↔ v ≠ 0 := by
  rw [bitlen_eq_size, Nat.size_pos, Nat.pos_iff_ne_zero]

/-- Shifting by `k` adds `k` to the bit length of a number that is not 0. -/
theorem bitlen_shiftLeft {v : Nat} (h : v ≠ 0) (k : Nat) : bitlen (v <<< k) = bitlen v + k := by
  simp only [bitlen_eq_size, Nat.size_shiftLeft h]

/-- The highest bit of a number is bit `bitlen - 1`. -/
theorem testBit_bitlen_pred {v : Nat} (h : v ≠ 0) : v.testBit (bitlen v - 1) = true := by
  simpa [bitlen, h] using Nat.testBit_log2 h

/-- With equal bit lengths the leading bits cancel. -/
theorem bitlen_xor_lt {u v : Nat} (hu : u ≠ 0) (h : bitlen v = bitlen u) :
    bitlen (u ^^^ v) < bitlen u := by
  have hpos : 0 < bitlen u := bitlen_pos.mpr hu
  have hv : v ≠ 0 := bitlen_pos.mp (h ▸ hpos)
  have hlow : bitlen (u ^^^ v) ≤ bitlen u - 1 := by
    refine bitlen_le_iff.mpr (Nat.lt_pow_two_of_testBit _ fun i hi => ?_)
    rw [Nat.testBit_xor]
    rcases hi.eq_or_lt with rfl | hi
    · rw [testBit_bitlen_pred hu, ← h, testBit_bitlen_pred hv]; rfl
    · rw [Nat.testBit_lt_two_pow (bitlen_le_iff.mp (by omega)),
        Nat.testBit_lt_two_pow (bitlen_le_iff.mp (by omega))]; rfl
  omega

/-! ### The carry-less product (00_scope R11) -/

/-- The carry-less product of the low `n` bits of `a` with `b`. -/
def clmulLow (a b n : Nat) : Nat :=
  (List.range n).foldl (fun acc i => if a.testBit i then acc ^^^ (b <<< i) else acc) 0

/-- All bits together give the whole product. -/
theorem clmul_eq_clmulLow (a b : Nat) : clmul a b = clmulLow a b (bitlen a) := rfl

@[simp] theorem clmulLow_zero (a b : Nat) : clmulLow a b 0 = 0 := rfl

theorem clmulLow_succ (a b n : Nat) :
    clmulLow a b (n + 1) = clmulLow a b n ^^^ (if a.testBit n then b <<< n else 0) := by
  simp only [clmulLow, List.range_succ, List.foldl_append, List.foldl_cons, List.foldl_nil]
  split <;> simp

/-- Bits that are 0 contribute nothing: from the bit length on, the product is complete. -/
theorem clmulLow_of_bitlen_le {a n : Nat} (b : Nat) (h : bitlen a ≤ n) :
    clmulLow a b n = clmul a b := by
  induction n, h using Nat.le_induction with
  | base => exact (clmul_eq_clmulLow a b).symm
  | succ n hn ih => simp [clmulLow_succ, Nat.testBit_lt_two_pow (bitlen_le_iff.mp hn), ih]

theorem clmulLow_xor (a c b n : Nat) :
    clmulLow (a ^^^ c) b n = clmulLow a b n ^^^ clmulLow c b n := by
  induction n with
  | zero => simp
  | succ n ih =>
    have hbit : (if (a ^^^ c).testBit n then b <<< n else 0) =
        (if a.testBit n then b <<< n else 0) ^^^ (if c.testBit n then b <<< n else 0) := by
      rw [Nat.testBit_xor]
      cases a.testBit n <;> cases c.testBit n <;> simp
    rw [clmulLow_succ, clmulLow_succ, clmulLow_succ, ih, hbit]
    ac_rfl

/-- The carry-less product is additive in its first factor, addition being XOR. -/
theorem clmul_xor (a c b : Nat) : clmul (a ^^^ c) b = clmul a b ^^^ clmul c b := by
  have ha : bitlen a ≤ max (bitlen a) (bitlen c) := le_max_left _ _
  have hc : bitlen c ≤ max (bitlen a) (bitlen c) := le_max_right _ _
  have hac : bitlen (a ^^^ c) ≤ max (bitlen a) (bitlen c) :=
    bitlen_le_iff.mpr (Nat.xor_lt_two_pow (bitlen_le_iff.mp ha) (bitlen_le_iff.mp hc))
  rw [← clmulLow_of_bitlen_le b ha, ← clmulLow_of_bitlen_le b hc, ← clmulLow_of_bitlen_le b hac,
    clmulLow_xor]

@[simp] theorem clmul_zero (b : Nat) : clmul 0 b = 0 := rfl

/-- Multiplying by `x^k` is shifting by `k`. -/
theorem clmul_two_pow (k b : Nat) : clmul (2 ^ k) b = b <<< k := by
  have hlow : ∀ n ≤ k, clmulLow (2 ^ k) b n = 0 := by
    intro n hn
    induction n with
    | zero => rfl
    | succ n ih =>
      simp [clmulLow_succ, ih (by omega), Nat.testBit_two_pow_of_ne (show k ≠ n by omega)]
  have hlen : bitlen (2 ^ k) ≤ k + 1 := bitlen_le_iff.mpr (Nat.pow_lt_pow_succ one_lt_two)
  rw [← clmulLow_of_bitlen_le b hlen, clmulLow_succ, hlow k le_rfl, Nat.testBit_two_pow_self]
  simp

/-! ### `reduce_poly` (42_modred R100) -/

/-- A polynomial of lower degree than `rel` is its own remainder. -/
theorem IsPolyRemainder.self {rel r : Nat} (h : bitlen r < bitlen rel) : IsPolyRemainder r rel r :=
  ⟨⟨0, by simp⟩, h⟩

/-- Adding `rel` times `x^k` to a polynomial does not change its remainder. -/
theorem IsPolyRemainder.of_xor_shiftLeft {poly rel r k : Nat}
    (h : IsPolyRemainder (poly ^^^ (rel <<< k)) rel r) : IsPolyRemainder poly rel r := by
  obtain ⟨⟨q, hq⟩, hlt⟩ := h
  refine ⟨⟨q ^^^ 2 ^ k, ?_⟩, hlt⟩
  calc poly = poly ^^^ rel <<< k ^^^ rel <<< k := by simp
    _ = clmul q rel ^^^ r ^^^ clmul (2 ^ k) rel := by rw [hq, clmul_two_pow]
    _ = clmul (q ^^^ 2 ^ k) rel ^^^ r := by rw [clmul_xor, Nat.xor_right_comm]

/-- Aligning the leading bits shortens the polynomial. -/
theorem bitlen_xor_aligned_lt {poly rel : Nat} (hrel : rel ≠ 0) (h : bitlen rel ≤ bitlen poly) :
    bitlen (poly ^^^ (rel <<< (bitlen poly - bitlen rel))) < bitlen poly := by
  have hpoly : poly ≠ 0 := bitlen_pos.mp ((bitlen_pos.mpr hrel).trans_le h)
  exact bitlen_xor_lt hpoly (by rw [bitlen_shiftLeft hrel]; omega)

/-- With as much fuel as the polynomial has bits the loop ends with the remainder. -/
theorem reducePolyLoop_isPolyRemainder {rel : Nat} (hrel : rel ≠ 0) (fuel poly : Nat)
    (hfuel : bitlen poly ≤ fuel) : IsPolyRemainder poly rel (reducePolyLoop rel fuel poly) := by
  have hpos : 0 < bitlen rel := bitlen_pos.mpr hrel
  induction fuel generalizing poly with
  | zero => exact .self (hfuel.trans_lt hpos)
  | succ fuel ih =>
    unfold reducePolyLoop
    split_ifs with hlen
    · have hshort := bitlen_xor_aligned_lt hrel hlen
      exact .of_xor_shiftLeft (ih _ (by omega))
    · exact .self (by omega)

/-- `reduce_poly` is the remainder of the division by a relation that is not 0. -/
theorem reducePoly_isPolyRemainder (poly : Nat) {rel : Nat} (hrel : rel ≠ 0) :
    IsPolyRemainder poly rel (reducePoly poly rel) :=
  reducePolyLoop_isPolyRemainder hrel _ _ le_rfl

/-- A remainder fits wherever the relation fits. -/
theorem IsPolyRemainder.lt_two_pow {poly rel r : Nat} (h : IsPolyRemainder poly rel r)
    (hrel : rel < 2 ^ w) : r < 2 ^ w :=
  bitlen_le_iff.mp (h.2.le.trans (bitlen_le_iff.mpr hrel))

/-! ### The command (42_modred R101) -/

/-- `REDPOLY` of operands that pass their checks writes `reduce_poly` of them, which fits. -/
theorem exec_redpoly {s : State} {a b c : RegIdx} (hb : 0 ≤ s.readX b) (hc : 0 < s.readX c) :
    exec (.redpoly a b c) s =
      .next (afterX s a (reducePoly (s.readX b).toNat (s.readX c).toNat)) := by
  have hfits : reducePoly (s.readX b).toNat (s.readX c).toNat < 2 ^ Config.W :=
    (reducePoly_isPolyRemainder _ (by omega)).lt_two_pow (readX_toNat_lt s c)
  change execRedpoly a b c s = _
  simp only [execRedpoly, requireNonneg_of_nonneg hb, requirePositive_of_pos hc, alg_ok_bind]
  exact command_commitX hfits

end Sys2Proof.Machine

section
open Sys2Proof Sys2Proof.Machine

/-- Settles O34: `REDPOLY` writes `reduce_poly` of its operands, which is the remainder. -/
theorem redpolyWritesTheRemainder : Obligations.RedpolyWritesTheRemainder := fun _ _ _ _ hb hc =>
  ⟨_, reducePoly_isPolyRemainder _ (by omega), exec_redpoly hb hc⟩

end
end

section
/-!
PROOFS of the gcd family: `egcd`, `GCD` and `XGCD` (43_gcd R105 to R109). The fuel of the loop never
shows, so `egcd` obeys the recursion of R105 and Euclid's induction applies to it; that induction bounds
the coefficients by the operands, which are in registers, so the results always fit.
-/
namespace Sys2Proof.Machine

variable {w : Nat}

/-! ### The recursion of `egcd` (43_gcd R105) -/

/-- Fuel past the first argument does not change the result of the loop. -/
theorem egcdLoop_fuel_irrelevant {m n a : Nat} (b : Nat) (hm : a < m) (hn : a < n) :
    egcdLoop m a b = egcdLoop n a b := by
  induction m generalizing n a b with
  | zero => omega
  | succ m ih =>
    obtain ⟨k, rfl⟩ : ∃ k, n = k + 1 := Nat.exists_eq_add_one.mpr (by omega)
    unfold egcdLoop
    split_ifs with ha
    · rfl
    · have hlt : b % a < a := Nat.mod_lt b (Nat.pos_of_ne_zero ha)
      rw [ih a (by omega) (show b % a < k by omega)]

@[simp] theorem egcd_zero_left (b : Nat) : egcd 0 b = (b, 0, 1) := rfl

/-- The recursive case of R105. -/
theorem egcd_of_pos {a : Nat} (b : Nat) (ha : 0 < a) :
    egcd a b = ((egcd (b % a) a).1,
      (egcd (b % a) a).2.2 - ((b / a : Nat) : Int) * (egcd (b % a) a).2.1,
      (egcd (b % a) a).2.1) := by
  have hsub : egcdLoop a (b % a) a = egcd (b % a) a :=
    egcdLoop_fuel_irrelevant a (Nat.mod_lt b ha) (Nat.lt_succ_self _)
  rw [← hsub]
  exact if_neg ha.ne'

/-! ### What `egcd` computes -/

/-- The first component is the greatest common divisor. -/
theorem egcd_fst (a b : Nat) : (egcd a b).1 = Nat.gcd a b :=
  (egcdLoop_bezout (a + 1) a b (Nat.lt_succ_self a)).1

/-- The size of the coefficient that a recursive case builds. -/
theorem natAbs_sub_natCast_mul_le (y x : Int) (q : Nat) :
    (y - q * x).natAbs ≤ y.natAbs + q * x.natAbs := by
  rw [← Int.natAbs_natCast q, ← Int.natAbs_mul, Int.natAbs_natCast]
  exact Int.natAbs_sub_le y (q * x)

/-- The bounds of R105 on the coefficients. In the recursive case the new coefficient is at most
`b % a + (b / a) * a = b`, unless `a` divides `b`, where it is 1. -/
theorem egcd_coeff_le (a b : Nat) :
    (egcd a b).2.1.natAbs ≤ max b 1 ∧ (egcd a b).2.2.natAbs ≤ max a 1 := by
  induction a, b using Nat.gcd.induction with
  | H0 b => simp
  | H1 a b ha ih =>
    obtain ⟨hx, hy⟩ := ih
    rw [egcd_of_pos b ha]
    refine ⟨?_, hx⟩
    rcases Nat.eq_zero_or_pos (b % a) with hr | hr
    · simp [hr]
    · rw [max_eq_left (Nat.succ_le_of_lt ha)] at hx
      rw [max_eq_left (Nat.succ_le_of_lt hr)] at hy
      refine le_max_of_le_left ?_
      calc ((egcd (b % a) a).2.2 - ((b / a : Nat) : Int) * (egcd (b % a) a).2.1).natAbs
          ≤ (egcd (b % a) a).2.2.natAbs + b / a * (egcd (b % a) a).2.1.natAbs :=
            natAbs_sub_natCast_mul_le _ _ _
        _ ≤ b % a + b / a * a := Nat.add_le_add hy (Nat.mul_le_mul_left _ hx)
        _ = b := Nat.mod_add_div' b a

/-! ### The results fit (60_exceptions R186) -/

/-- The greatest common divisor of two numbers that fit in a register fits. -/
theorem gcd_lt_two_pow {a b : Nat} (ha : a < 2 ^ w) (hb : b < 2 ^ w) : Nat.gcd a b < 2 ^ w := by
  rcases Nat.eq_zero_or_pos a with rfl | hpos
  · simpa using hb
  · exact (Nat.gcd_le_left b hpos).trans_lt ha

/-- The triple of two numbers that fit in a register fits, if the register has a bit: R105 gives the
coefficient 1 even for `egcd(0, 0)`. -/
theorem egcd_lt_two_pow {a b : Nat} (hw : 0 < w) (ha : a < 2 ^ w) (hb : b < 2 ^ w) :
    (egcd a b).1 < 2 ^ w ∧ (egcd a b).2.1.natAbs < 2 ^ w ∧ (egcd a b).2.2.natAbs < 2 ^ w := by
  have hone : 1 < 2 ^ w := Nat.one_lt_two_pow hw.ne'
  obtain ⟨hx, hy⟩ := egcd_coeff_le a b
  exact ⟨(egcd_fst a b).trans_lt (gcd_lt_two_pow ha hb), hx.trans_lt (max_lt hb hone),
    hy.trans_lt (max_lt ha hone)⟩

/-! ### On the values of data registers -/

/-- For operands that are not negative the greatest common divisor is that of the integers. -/
theorem gcd_toNat {a b : Int} (ha : 0 ≤ a) (hb : 0 ≤ b) : Nat.gcd a.toNat b.toNat = Int.gcd a b := by
  lift a to Nat using ha
  lift b to Nat using hb
  rfl

/-- Bézout's identity for operands that are not negative. -/
theorem egcd_bezout_toNat {a b : Int} (ha : 0 ≤ a) (hb : 0 ≤ b) :
    a * (egcd a.toNat b.toNat).2.1 + b * (egcd a.toNat b.toNat).2.2 = (egcd a.toNat b.toNat).1 := by
  lift a to Nat using ha
  lift b to Nat using hb
  rw [egcd_fst]
  exact egcd_bezout a b

/-! ### The commands (43_gcd R107, R108) -/

/-- Different destinations pass the check of 30_encoding R75. -/
theorem requireDistinct_of_ne {i j : RegIdx} (h : i ≠ j) : requireDistinct i j = .ok () :=
  require_eq_ok.mpr (bne_iff_ne.mpr h)

/-- A command with three X destinations whose results fit has their writes, in this order, as its one
effect. -/
theorem command_commitX3 {s : State w} {a b c : RegIdx} {v u z : Int} (hv : v.natAbs < 2 ^ w)
    (hu : u.natAbs < 2 ^ w) (hz : z.natAbs < 2 ^ w) :
    s.command (commitX3 s a b c v u z) =
      .next (((s.writeX a v).writeX b u).writeX c z).endSuccess := by
  rw [commitX3_eq_ok.mpr ⟨hv, hu, hz, rfl⟩]
  rfl

/-- `GCD` of operands that pass their checks writes `gcd` of them, which fits. -/
theorem exec_gcd {s : State} {a b c : RegIdx} (hb : 0 ≤ s.readX b) (hc : 0 ≤ s.readX c) :
    exec (.gcd a b c) s = .next (afterX s a (gcdOf (s.readX b).toNat (s.readX c).toNat)) := by
  have hfits : gcdOf (s.readX b).toNat (s.readX c).toNat < 2 ^ Config.W :=
    (egcd_fst _ _).trans_lt (gcd_lt_two_pow (readX_toNat_lt s b) (readX_toNat_lt s c))
  change execGcd a b c s = _
  simp only [execGcd, requireNonneg_of_nonneg hb, requireNonneg_of_nonneg hc, alg_ok_bind]
  exact command_commitX hfits

/-- `XGCD` of different destinations and operands that pass their checks writes the triple `egcd` of
them, which fits. -/
theorem exec_xgcd {s : State} {a b c d e : RegIdx} {g : Nat} {x y : Int} (hab : a ≠ b) (hac : a ≠ c)
    (hbc : b ≠ c) (hd : 0 ≤ s.readX d) (he : 0 ≤ s.readX e)
    (hr : egcd (s.readX d).toNat (s.readX e).toNat = (g, x, y)) :
    exec (.xgcd a b c d e) s =
      .next (((s.writeX a g).writeX b x).writeX c y).endSuccess := by
  obtain ⟨hg, hx, hy⟩ :=
    egcd_lt_two_pow (by decide : 0 < Config.W) (readX_toNat_lt s d) (readX_toNat_lt s e)
  rw [hr] at hg hx hy
  change execXgcd a b c d e s = _
  simp only [execXgcd, requireDistinct_of_ne hab, requireDistinct_of_ne hac,
    requireDistinct_of_ne hbc, requireNonneg_of_nonneg hd, requireNonneg_of_nonneg he, alg_ok_bind, hr]
  exact command_commitX3 hg hx hy

end Sys2Proof.Machine

section
open Sys2Proof Sys2Proof.Machine

/-- Settles O35: the recursion, and Euclid's induction for the bounds on the coefficients. -/
theorem egcdRecursionAndBezout : Obligations.EgcdRecursionAndBezout := by
  intro a b
  refine ⟨?_, (egcd_fst a b).symm ▸ egcd_bezout a b, egcd_fst a b, egcd_coeff_le a b⟩
  split_ifs with ha
  · rw [ha, egcd_zero_left]
  · exact egcd_of_pos b (Nat.pos_of_ne_zero ha)

/-- Settles O36: `GCD` writes `gcd` of its operands, which is their greatest common divisor. -/
theorem gcdWritesTheDivisor : Obligations.GcdWritesTheDivisor := by
  intro s a b c hb hc
  rw [exec_gcd hb hc, gcdOf, egcd_fst, gcd_toNat hb hc]

/-- Settles O37: `XGCD` writes the triple `egcd` of its operands. -/
theorem xgcdWritesTheTriple : Obligations.XgcdWritesTheTriple :=
  fun _ _ _ _ _ _ hab hac hbc hd he =>
    ⟨_, _, _, rfl, egcd_bezout_toNat hd he, (egcd_fst _ _).trans (gcd_toNat hd he),
      exec_xgcd hab hac hbc hd he rfl⟩

end
end

section
/-!
PROOFS of the field family, first part: the configuration that a command needs (44_field R112, 46_curve
R150), the primality test (44_field R114) and the construction of a field (R115 to R117).
-/
namespace Sys2Proof.Machine

variable {w : Nat} {s : State w}

/-! ### Commands without their configuration -/

/-- A command that raises a typed error ends with its code, and all writes are discarded (60_exceptions
R181). -/
theorem command_raised {e : TypedError} {r : Alg (State w)} (h : r = .error (.raised e)) :
    s.command r = .next (afterError s e.code) := by
  rw [h]
  rfl

/-- A command that goes fatal ends with its cause, and all writes are discarded (60_exceptions R188). -/
theorem command_fatal {c : FatalCause} {r : Alg (State w)} (h : r = .error (.fatal c)) :
    s.command r = .next (afterFatal s c.code) := by
  rw [h]
  rfl

/-- Without a field the check of 44_field R112 ends the command. -/
theorem command_requireField_bind (hfv : s.fv = false) (f : Unit → Alg (State w)) :
    s.command (requireField s >>= f) = .next (afterError s 13) :=
  command_raised (e := .notConfigured) (by rw [requireField, hfv]; rfl)

/-- Without a curve the check of 46_curve R150 ends the command. -/
theorem command_requireCurve_bind (hcv : s.cv = false) (f : Unit → Alg (State w)) :
    s.command (requireCurve s >>= f) = .next (afterError s 13) :=
  command_raised (e := .notConfigured) (by rw [requireCurve, hcv]; rfl)

/-- Different destinations do not stop the command (30_encoding R75). -/
theorem requireDistinct_bind {α : Type} {i j : RegIdx} (h : i ≠ j) (f : Unit → Alg α) :
    (requireDistinct i j >>= f) = f () := by
  rw [requireDistinct_of_ne h, alg_ok_bind]

/-- A well-formed field command needs a field before all else. -/
theorem exec_of_no_field {i : Instr} {s : State} (hwf : i.wellFormed = true) (hi : needsField i = true)
    (hfv : s.fv = false) : exec i s = .next (afterError s 13) := by
  cases i with
  | fred | fadd | fmul | fpow | fneg | finv | fdiv | fchar | ecnew =>
    exact command_requireField_bind hfv _
  | fsqrt a b c =>
    change execFsqrt a b c s = _
    rw [execFsqrt, requireDistinct_bind (bne_iff_ne.mp hwf)]
    exact command_requireField_bind hfv _
  | _ => cases hi

/-- A well-formed curve command needs a curve before all else. -/
theorem exec_of_no_curve {i : Instr} {s : State} (hwf : i.wellFormed = true) (hi : needsCurve i = true)
    (hcv : s.cv = false) : exec i s = .next (afterError s 13) := by
  cases i with
  | ecpoint | ecchk | ecinf | ecadd | ecneg | ecmul | eceq => exact command_requireCurve_bind hcv _
  | ecget a b c =>
    change execEcget a b c s = _
    rw [execEcget, requireDistinct_bind (bne_iff_ne.mp hwf)]
    exact command_requireCurve_bind hcv _
  | _ => cases hi

/-! ### The primality test (44_field R114) -/

/-- A prime is a number from 2 on without a divisor between 1 and itself, among the integers too. -/
theorem prime_iff_no_int_divisor (n : Nat) :
    n.Prime ↔ 2 ≤ (n : Int) ∧ ∀ d : Int, 1 < d → d < n → ¬ d ∣ n := by
  rw [Nat.prime_def_lt']
  constructor
  · rintro ⟨htwo, hdiv⟩
    refine ⟨by exact_mod_cast htwo, fun d hone hlt hd => ?_⟩
    lift d to Nat using by omega
    exact hdiv d (by omega) (by omega) (Int.natCast_dvd_natCast.mp hd)
  · rintro ⟨htwo, hdiv⟩
    exact ⟨by exact_mod_cast htwo, fun m hm hlt hd =>
      hdiv m (by omega) (by omega) (Int.natCast_dvd_natCast.mpr hd)⟩

/-! ### Field construction (44_field R115 to R117) -/

/-- What R117 does to a tag, as a condition on it. -/
theorem Tag.afterField_eq (t : Tag) : t.afterField = if t = .empty then .empty else .staleField := by
  cases t <;> rfl

/-- A command that constructs a field leaves the state of R117. -/
theorem command_fieldCommit (base : Nat) (fp relv : Bool) (rel : Nat) :
    s.command (.ok (fieldCommit s base fp relv rel)) = .next (afterNewField s base fp relv rel) := by
  rw [State.command, finish_ok, fieldCommit, State.retag, mapRegs_eq_map]
  simp only [Tag.afterField_eq]
  rfl

/-- An entry of `DEFREL` is for one of three sizes (00_scope R8). -/
theorem defRel_size {base rel : Nat} (h : Config.defRel base w = some rel) :
    base = 8 ∨ base = 16 ∨ base = 256 := by
  unfold Config.defRel at h
  split_ifs at h with hsize
  exact hsize

/-- A base below 2 is refused. -/
theorem requireBase_of_lt {v : Int} (h : v < 2) :
    require (decide (2 ≤ v)) .invalidField = .error (.raised .invalidField) :=
  require_eq_error.mpr ⟨decide_eq_false (not_le.mpr h), rfl⟩

/-- A base from 2 on passes its check. -/
theorem requireBase_of_le {n : Nat} (h : 2 ≤ n) :
    require (decide (2 ≤ (n : Int))) .invalidField = .ok () :=
  require_eq_ok.mpr (decide_eq_true (by exact_mod_cast h))

theorem execFldnew_small {b : RegIdx} (hb : s.readX b < 2) :
    execFldnew b s = .next (afterError s 1) :=
  command_raised (e := .invalidField) (by rw [requireBase_of_lt hb]; rfl)

theorem execFldnew_prime {b : RegIdx} {n : Nat} (hb : s.readX b = n) (hn : n.Prime) :
    execFldnew b s = .next (afterNewField s n true false 0) := by
  simp only [execFldnew, hb, requireBase_of_le hn.two_le, alg_ok_bind, Int.toNat_natCast,
    (isPrime_iff n).mpr hn, if_true]
  exact command_fieldCommit ..

/-- A base that is not prime takes its relation from `DEFREL`. -/
theorem execFldnew_defRel {b : RegIdx} {n rel : Nat} (hb : s.readX b = n) (htwo : 2 ≤ n)
    (hn : ¬ n.Prime) (hrel : Config.defRel n w = some rel) :
    execFldnew b s = .next (afterNewField s n false true rel) := by
  simp only [execFldnew, hb, requireBase_of_le htwo, alg_ok_bind, Int.toNat_natCast,
    (isPrime_iff n).not.mpr hn, hrel]
  exact command_fieldCommit ..

/-- A base that is not prime and has no entry in `DEFREL` is refused. -/
theorem execFldnew_noDefRel {b : RegIdx} {n : Nat} (hb : s.readX b = n) (htwo : 2 ≤ n)
    (hn : ¬ n.Prime) (hrel : Config.defRel n w = none) :
    execFldnew b s = .next (afterError s 1) := by
  simp only [execFldnew, hb, requireBase_of_le htwo, alg_ok_bind, Int.toNat_natCast,
    (isPrime_iff n).not.mpr hn, hrel]
  rfl

theorem execFldnewr_negative {b c : RegIdx} (hc : s.readX c < 0) :
    execFldnewr b c s = .next (afterError s 11) :=
  command_raised (e := .invalidOperand) (by
    rw [requireNonneg, decide_eq_false (not_le.mpr hc)]; rfl)

theorem execFldnewr_small {b c : RegIdx} (hc : 0 ≤ s.readX c) (hb : s.readX b < 2) :
    execFldnewr b c s = .next (afterError s 1) :=
  command_raised (e := .invalidField) (by
    rw [requireNonneg_of_nonneg hc, alg_ok_bind, requireBase_of_lt hb]; rfl)

/-- Operands that pass the first two checks are stored, but for relation 0 with a base that is not
prime. -/
theorem execFldnewr_eq {b c : RegIdx} {n rel : Nat} (hb : s.readX b = n) (hc : s.readX c = rel)
    (htwo : 2 ≤ n) : execFldnewr b c s =
      if n.Prime ∨ rel ≠ 0 then .next (afterNewField s n (decide n.Prime) true rel)
      else .next (afterError s 1) := by
  have hprime : isPrime n = decide n.Prime := Bool.eq_iff_iff.mpr (by simp [isPrime_iff])
  simp only [execFldnewr, hb, hc, requireNonneg_of_nonneg (Int.natCast_nonneg rel),
    requireBase_of_le htwo, alg_ok_bind, Int.toNat_natCast, hprime, ← Bool.decide_or]
  split_ifs with hok
  · rw [decide_eq_true hok, require_true, alg_ok_bind]
    exact command_fieldCommit ..
  · rw [decide_eq_false hok]
    rfl

end Sys2Proof.Machine

section
open Sys2Proof Sys2Proof.Machine

/-- Settles O24: the check of the configuration comes first, once the destinations differ. -/
theorem commandsNeedTheirObjects : Obligations.CommandsNeedTheirObjects :=
  fun _ _ hwf => ⟨exec_of_no_field hwf, exec_of_no_curve hwf⟩

/-- Settles O38: trial division decides primality; no number below 0 is prime. -/
theorem primalityIsExact : Obligations.PrimalityIsExact := by
  intro n
  rw [isPrime_iff]
  rcases le_or_gt 0 n with hn | hn
  · lift n to Nat using hn
    exact prime_iff_no_int_divisor n
  · rw [Int.toNat_of_nonpos hn.le]
    exact iff_of_false Nat.not_prime_zero fun h => by omega

/-- Settles O39: the three ranges of the base. -/
theorem fieldConstruction : Obligations.FieldConstruction := by
  intro s b
  refine ⟨execFldnew_small, fun n hb hn => execFldnew_prime hb hn, fun n hb htwo hn => ?_⟩
  cases hrel : Config.defRel n with
  | none => exact execFldnew_noDefRel hb htwo hn hrel
  | some rel =>
    obtain ⟨hpos, hlt⟩ := defRel_bounds hrel
    exact ⟨defRel_size hrel, hpos, hlt, execFldnew_defRel hb htwo hn hrel⟩

/-- Settles O40: the relation's sign is checked before the base's range, and relation 0 last. -/
theorem fieldConstructionWithRelation : Obligations.FieldConstructionWithRelation := by
  intro s b c
  refine ⟨execFldnewr_negative, execFldnewr_small, fun n rel hb hc htwo => ?_⟩
  have hexec : exec (.fldnewr b c) s = _ := execFldnewr_eq hb hc htwo
  rw [hexec]
  refine ⟨fun hn => ?_, fun hn hrel => ?_, fun hn hrel => ?_⟩
  · rw [if_pos (.inl hn), decide_eq_true hn]
  · rw [if_pos (.inr hrel), decide_eq_false hn]
  · rw [if_neg (not_or.mpr ⟨hn, not_not.mpr hrel⟩)]

end
end

section
/-!
PROOFS of the field family, second part: field arithmetic in prime mode (44_field R118 to R129) and
`FPOW` in both modes (R123). The commands that compute one value share their last phases (`fieldOp`), so
each of them is a fact about its pure function.
-/
namespace Sys2Proof.Machine

variable {w : Nat} {s : State w} {a : RegIdx}

/-! ### The commands that compute one value -/

/-- A command that needs a field, computes `x` and writes its answer, as the integer `toInt` gives, to
`X[a]`. -/
def fieldOp {α : Type} (s : State w) (a : RegIdx) (toInt : α → Int) (x : Alg α) : Result (State w) :=
  s.command do
    requireField s
    let v ← x
    commitX s a (toInt v)

theorem exec_fred (a b : RegIdx) (s : State) :
    exec (.fred a b) s = fieldOp s a Nat.cast (reduce s.field (s.readX b)) := rfl

theorem exec_fadd (a b c : RegIdx) (s : State) :
    exec (.fadd a b c) s = fieldOp s a Nat.cast (fAdd s.field (s.readX b) (s.readX c)) := rfl

theorem exec_fmul (a b c : RegIdx) (s : State) :
    exec (.fmul a b c) s = fieldOp s a Nat.cast (reduce s.field (s.readX b * s.readX c)) := rfl

theorem exec_fneg (a b : RegIdx) (s : State) :
    exec (.fneg a b) s = fieldOp s a id (fNeg s.field (s.readX b)) := rfl

theorem exec_finv (a b : RegIdx) (s : State) :
    exec (.finv a b) s = fieldOp s a Nat.cast (fInv s.field (s.readX b)) := rfl

theorem exec_fdiv (a b c : RegIdx) (s : State) :
    exec (.fdiv a b c) s = fieldOp s a Nat.cast (fDiv s.field (s.readX b) (s.readX c)) := rfl

section
variable {α : Type} {toInt : α → Int} (hfv : s.fv = true)
include hfv

/-- The field is there, so only the computation and the range of its result decide the end. -/
theorem fieldOp_of_field (x : Alg α) :
    fieldOp s a toInt x = s.command (x >>= fun v => commitX s a (toInt v)) := by
  rw [fieldOp, requireField, hfv, require_true, alg_ok_bind]

/-- A result that fits is written. -/
theorem fieldOp_ok {v : α} (hv : (toInt v).natAbs < 2 ^ w) :
    fieldOp s a toInt (.ok v) = .next (afterX s a (toInt v)) :=
  (fieldOp_of_field hfv _).trans (command_commitX hv)

theorem fieldOp_natCast_ok {v : Nat} (hv : v < 2 ^ w) :
    fieldOp s a Nat.cast (.ok v) = .next (afterX s a v) :=
  fieldOp_ok hfv (toInt := Nat.cast) hv

theorem fieldOp_raised (e : TypedError) :
    fieldOp s a toInt (.error (.raised e)) = .next (afterError s e.code) :=
  fieldOp_of_field hfv _

theorem fieldOp_fatal (c : FatalCause) :
    fieldOp s a toInt (.error (.fatal c)) = .next (afterFatal s c.code) :=
  fieldOp_of_field hfv _

end

/-! ### The pure functions on what `reduce` answers -/

section
variable {f : FieldCfg} {x y : Int} {r : Nat}

theorem fNeg_of_ok (h : reduce f x = .ok r) :
    fNeg f x = .ok (if r = 0 then 0 else (f.base : Int) - r) := by
  rw [fNeg, h]
  rfl

theorem fNeg_of_error {e : Stop} (h : reduce f x = .error e) : fNeg f x = .error e := by
  rw [fNeg, h]
  rfl

/-- 44_field R126: an operand that reduces to 0 has no inverse. -/
theorem fInv_of_zero (h : reduce f x = .ok 0) : fInv f x = .error (.raised .noInverse) := by
  rw [fInv, h]
  rfl

/-- 44_field R126: the Bézout coefficient of any other residue, reduced. -/
theorem fInv_of_ne_zero (h : reduce f x = .ok r) (hr : r ≠ 0) :
    fInv f x = reduce f (egcd r f.base).2.1 := by
  rw [fInv, h, alg_ok_bind, decide_eq_true hr, require_true, alg_ok_bind]

theorem fInv_of_error {e : Stop} (h : reduce f x = .error e) : fInv f x = .error e := by
  rw [fInv, h]
  rfl

/-- 44_field R128: the product with the inverse, reduced. -/
theorem fDiv_of_ok (h : fInv f y = .ok r) : fDiv f x y = reduce f (x * (r : Int)) := by
  rw [fDiv, h]
  rfl

/-- 44_field R128: a missing inverse is reported as a division by zero. -/
theorem fDiv_of_noInverse (h : fInv f y = .error (.raised .noInverse)) :
    fDiv f x y = .error (.raised .divisionByZero) := by
  rw [fDiv, h]
  rfl

theorem fDiv_of_fatal {c : FatalCause} (h : fInv f y = .error (.fatal c)) :
    fDiv f x y = .error (.fatal c) := by
  rw [fDiv, h]
  rfl

end

/-- `FINV` and `FDIV` of an operand that has no inverse. -/
theorem exec_inverse_of_noInverse {s : State} {c : RegIdx} (hfv : s.fv = true)
    (h : fInv s.field (s.readX c) = .error (.raised .noInverse)) (a b : RegIdx) :
    exec (.finv a c) s = .next (afterError s 4) ∧ exec (.fdiv a b c) s = .next (afterError s 5) := by
  rw [exec_finv, exec_fdiv, h, fDiv_of_noInverse h]
  exact ⟨fieldOp_raised hfv _, fieldOp_raised hfv _⟩

/-- `FINV` and `FDIV` of an operand whose inverse reduces a negative value in non-prime mode. -/
theorem exec_inverse_of_fatal {s : State} {c : RegIdx} (hfv : s.fv = true)
    (h : fInv s.field (s.readX c) = .error (.fatal .negativeNonPrimeReduce)) (a b : RegIdx) :
    exec (.finv a c) s = .next (afterFatal s 1) ∧ exec (.fdiv a b c) s = .next (afterFatal s 1) := by
  rw [exec_finv, exec_fdiv, h, fDiv_of_fatal h]
  exact ⟨fieldOp_fatal hfv _, fieldOp_fatal hfv _⟩

/-! ### Prime mode -/

/-- In prime mode `f_add` is `reduce` of the sum (44_field R120). -/
theorem fAdd_eq_reduce {f : FieldCfg} (h : f.prime = true) (x y : Int) :
    fAdd f x y = reduce f (x + y) := by
  rw [fAdd_prime h, reduce_prime h]

/-- In prime mode a command that reduces an integer writes its residue, which fits as `FBASE` does. -/
theorem fieldOp_reduce_prime (hfv : s.fv = true) (hfp : s.fp = true) (hb : 0 < s.fbase.toNat)
    (n : Int) : fieldOp s a Nat.cast (reduce s.field n) = .next (afterX s a (n % s.fbase.toNat)) := by
  obtain ⟨r, hr, hcast, hlt⟩ := reduce_prime_cast (f := s.field) hfp hb n
  have hfits : r < 2 ^ w := hlt.trans s.fbase.isLt
  rw [hr, fieldOp_natCast_ok hfv hfits, hcast]
  rfl

/-- In prime mode a command that negates writes the residue of the negative. -/
theorem fieldOp_fNeg_prime (hfv : s.fv = true) (hfp : s.fp = true) (hb : 0 < s.fbase.toNat)
    (n : Int) : fieldOp s a id (fNeg s.field n) = .next (afterX s a (-n % s.fbase.toNat)) := by
  have hnonneg : 0 ≤ -n % (s.fbase.toNat : Int) := Int.emod_nonneg _ (by omega)
  have hlt : -n % (s.fbase.toNat : Int) < s.fbase.toNat := Int.emod_lt_of_pos _ (by omega)
  have hbase : s.fbase.toNat < 2 ^ w := s.fbase.isLt
  rw [fNeg_prime_cast (f := s.field) hfp hb]
  exact fieldOp_ok hfv (show (-n % (s.fbase.toNat : Int)).natAbs < 2 ^ w by omega)

/-- A multiple of the base is zero in the field. -/
theorem emod_eq_zero_iff_zmod (x : Int) (p : Nat) : x % p = 0 ↔ (x : ZMod p) = 0 :=
  Int.dvd_iff_emod_eq_zero.symm.trans (ZMod.intCast_zmod_eq_zero_iff_dvd x p).symm

/-- In prime mode a multiple of the base has no inverse. -/
theorem fInv_prime_of_multiple {f : FieldCfg} (h : f.prime = true) {x : Int} (hx : x % f.base = 0) :
    fInv f x = .error (.raised .noInverse) := by
  refine fInv_of_zero ?_
  rw [reduce_prime h, hx]
  rfl

/-- `FPOW` of operands that are not negative writes `pow_mod` of them, which fits. -/
theorem exec_fpow {s : State} {a b c : RegIdx} (hfv : s.fv = true) (hbase : 0 < s.fbase.toNat)
    (hb : 0 ≤ s.readX b) (hc : 0 ≤ s.readX c) :
    exec (.fpow a b c) s =
      .next (afterX s a (powMod (s.readX b).toNat (s.readX c).toNat s.fbase.toNat)) := by
  have hfits : powMod (s.readX b).toNat (s.readX c).toNat s.fbase.toNat < 2 ^ Config.W :=
    (powMod_le _ _ hbase).trans_lt s.fbase.isLt
  change execFpow a b c s = _
  simp only [execFpow, requireField, hfv, require_true, requireNonneg_of_nonneg hb,
    requireNonneg_of_nonneg hc, alg_ok_bind]
  exact command_commitX hfits

end Sys2Proof.Machine

section
open Sys2Proof Sys2Proof.Machine

/-- Settles O41: the four commands reduce, the sum, the product and the negative included. -/
theorem primeFieldRingCommands : Obligations.PrimeFieldRingCommands := by
  intro s a b c hfv hfp hb
  rw [exec_fred, exec_fadd, exec_fmul, exec_fneg, fAdd_eq_reduce (f := s.field) hfp]
  exact ⟨fieldOp_reduce_prime hfv hfp hb _, fieldOp_reduce_prime hfv hfp hb _,
    fieldOp_reduce_prime hfv hfp hb _, fieldOp_fNeg_prime hfv hfp hb _⟩

/-- Settles O42: `FPOW` writes `pow_mod` with modulus `FBASE`, which is the power as an integer. -/
theorem fpowWritesThePower : Obligations.FpowWritesThePower := by
  intro s a b c hfv hbase hb hc
  rw [exec_fpow hfv hbase hb hc, ← powMod_toNat hb hc (Int.natCast_nonneg s.fbase.toNat),
    Int.toNat_natCast]

/-- Settles O43: the inverse in `ZMod FBASE`, read back as an integer. -/
theorem finvWritesTheInverse : Obligations.FinvWritesTheInverse := by
  intro s a b hfv hfp hprime
  refine ⟨fun hzero => ?_, fun hne => ?_⟩
  · have hinv := fInv_prime_of_multiple (f := s.field) hfp hzero
    exact (exec_inverse_of_noInverse hfv hinv a a).1
  · obtain ⟨v, hv, hlt, hmul⟩ :=
      fInv_zmod (f := s.field) hfp hprime ((emod_eq_zero_iff_zmod _ _).not.mp hne)
    have hone : s.readX b * v % s.fbase.toNat = 1 := by
      have hcast : ((s.readX b * v : Int) : ZMod s.fbase.toNat) = (1 : Int) := by exact_mod_cast hmul
      rw [(ZMod.intCast_eq_intCast_iff' _ _ _).mp hcast]
      exact Int.emod_eq_of_lt (by decide) (by exact_mod_cast hprime.one_lt)
    have hpos : 0 < v := Nat.pos_of_ne_zero fun h0 => by simp [h0] at hone
    have hfits : v < 2 ^ Config.W := Nat.lt_trans hlt s.fbase.isLt
    refine ⟨v, hpos, hlt, hone, ?_⟩
    rw [exec_finv, hv]
    exact fieldOp_natCast_ok hfv hfits

/-- Settles O44: the quotient in `ZMod FBASE`, read back as an integer. -/
theorem fdivWritesTheQuotient : Obligations.FdivWritesTheQuotient := by
  intro s a b c hfv hfp hprime
  refine ⟨fun hzero => ?_, fun hne => ?_⟩
  · have hinv := fInv_prime_of_multiple (f := s.field) hfp hzero
    exact (exec_inverse_of_noInverse hfv hinv a b).2
  · obtain ⟨v, hv, hlt, hmul⟩ :=
      fDiv_zmod (f := s.field) hfp hprime (s.readX b) ((emod_eq_zero_iff_zmod _ _).not.mp hne)
    have hquot : (v : Int) * s.readX c % s.fbase.toNat = s.readX b % s.fbase.toNat :=
      (ZMod.intCast_eq_intCast_iff' _ _ _).mp (by exact_mod_cast hmul)
    have hfits : v < 2 ^ Config.W := Nat.lt_trans hlt s.fbase.isLt
    refine ⟨v, hlt, hquot, ?_⟩
    rw [exec_fdiv, hv]
    exact fieldOp_natCast_ok hfv hfits

end
end

section
/-!
PROOFS of the field family, third part: non-prime mode (44_field R113, R118 to R131). The remainder of
the division of binary polynomials is unique, so a statement about any remainder is one about what
`reduce` answers; a remainder always fits, because the relation does.
-/
namespace Sys2Proof.Machine

variable {w : Nat} {s : State w} {a : RegIdx}

/-! ### The remainder of binary polynomials is unique -/

/-- The low `n` bits of the quotient reach at most degree `n + k - 1`, for a divisor of degree `k`. -/
theorem clmulLow_lt_two_pow {rel k : Nat} (h : rel < 2 ^ (k + 1)) (q n : Nat) :
    clmulLow q rel n < 2 ^ (n + k) := by
  induction n with
  | zero => exact Nat.two_pow_pos _
  | succ n ih =>
    rw [clmulLow_succ]
    have hlow : clmulLow q rel n < 2 ^ (n + 1 + k) :=
      ih.trans_le (Nat.pow_le_pow_right two_pos (by omega))
    have hshift : rel <<< n < 2 ^ (n + 1 + k) := by
      rw [Nat.shiftLeft_eq, show n + 1 + k = k + 1 + n by omega, pow_add]
      exact Nat.mul_lt_mul_of_pos_right h (Nat.two_pow_pos n)
    refine Nat.xor_lt_two_pow hlow ?_
    split
    · exact hshift
    · exact Nat.two_pow_pos _

/-- A multiple of a polynomial that is not 0 has at least its degree: the leading bits of both factors
meet in one bit of the product. -/
theorem bitlen_le_bitlen_clmul {q rel : Nat} (hq : q ≠ 0) (hrel : rel ≠ 0) :
    bitlen rel ≤ bitlen (clmul q rel) := by
  obtain ⟨n, hn⟩ : ∃ n, bitlen q = n + 1 := Nat.exists_eq_add_one.mpr (bitlen_pos.mpr hq)
  obtain ⟨k, hk⟩ : ∃ k, bitlen rel = k + 1 := Nat.exists_eq_add_one.mpr (bitlen_pos.mpr hrel)
  have hqtop : q.testBit n = true := by simpa [hn] using testBit_bitlen_pred hq
  have hreltop : rel.testBit k = true := by simpa [hk] using testBit_bitlen_pred hrel
  have hlow : clmulLow q rel n < 2 ^ (n + k) :=
    clmulLow_lt_two_pow (bitlen_le_iff.mp hk.le) q n
  have htop : (clmul q rel).testBit (n + k) = true := by
    rw [clmul_eq_clmulLow, hn, clmulLow_succ, if_pos hqtop, Nat.testBit_xor,
      Nat.testBit_lt_two_pow hlow, Nat.testBit_shiftLeft]
    simp [hreltop]
  have hge : 2 ^ (n + k) ≤ clmul q rel := Nat.ge_two_pow_of_testBit htop
  by_contra hlt
  have hsmall : clmul q rel < 2 ^ k := bitlen_le_iff.mp (by omega)
  exact absurd (Nat.pow_le_pow_right two_pos (Nat.le_add_left k n)) (by omega)

/-- Division of binary polynomials has one remainder. -/
theorem IsPolyRemainder.unique {poly rel r r' : Nat} (h : IsPolyRemainder poly rel r)
    (h' : IsPolyRemainder poly rel r') : r = r' := by
  obtain ⟨⟨q, hq⟩, hlt⟩ := h
  obtain ⟨⟨q', hq'⟩, hlt'⟩ := h'
  have hrel : rel ≠ 0 := bitlen_pos.mp ((Nat.zero_le _).trans_lt hlt)
  have hdiff : clmul (q ^^^ q') rel = r ^^^ r' := by
    have hsame : clmul q rel ^^^ r = clmul q' rel ^^^ r' := hq.symm.trans hq'
    calc clmul (q ^^^ q') rel = clmul q rel ^^^ r ^^^ (clmul q' rel ^^^ r') ^^^ (r ^^^ r') := by
          rw [clmul_xor]; simp [Nat.xor_assoc, Nat.xor_comm, Nat.xor_left_comm]
      _ = r ^^^ r' := by rw [hsame]; simp
  have hshort : bitlen (r ^^^ r') < bitlen rel := by
    have hle : bitlen (r ^^^ r') ≤ bitlen rel - 1 := bitlen_le_iff.mpr
      (Nat.xor_lt_two_pow (bitlen_le_iff.mp (by omega)) (bitlen_le_iff.mp (by omega)))
    omega
  have hzero : q ^^^ q' = 0 := by
    by_contra hne
    have hge := bitlen_le_bitlen_clmul hne hrel
    rw [hdiff] at hge
    omega
  rw [hzero, clmul_zero] at hdiff
  exact Nat.xor_eq_zero_iff.mp hdiff.symm

/-! ### `reduce` and `f_add` in non-prime mode -/

section
variable {f : FieldCfg} {n : Int}

/-- A negative integer that reaches `reduce` in non-prime mode is fatal (44_field R118). -/
theorem reduce_of_neg (h : f.prime = false) (hn : n < 0) :
    reduce f n = .error (.fatal .negativeNonPrimeReduce) := by
  rw [reduce_nonPrime h, if_pos hn]

/-- Any other integer is reduced to its remainder as a polynomial (44_field R118). -/
theorem reduce_of_nonneg (h : f.prime = false) (hrel : f.rel ≠ 0) (hn : 0 ≤ n) :
    ∃ r, reduce f n = .ok r ∧ IsPolyRemainder n.toNat f.rel r :=
  ⟨_, by rw [reduce_nonPrime h, if_neg hn.not_gt], reducePoly_isPolyRemainder _ hrel⟩

/-- The remainder determines what `reduce` answers. -/
theorem reduce_of_isPolyRemainder {r : Nat} (h : f.prime = false) (hrel : f.rel ≠ 0) (hn : 0 ≤ n)
    (hr : IsPolyRemainder n.toNat f.rel r) : reduce f n = .ok r := by
  obtain ⟨r', hr', hrem⟩ := reduce_of_nonneg h hrel hn
  rw [hr', hrem.unique hr]

/-- A negative operand of `f_add` is fatal in non-prime mode (44_field R120). -/
theorem fAdd_of_neg {x y : Int} (h : f.prime = false) (hxy : x < 0 ∨ y < 0) :
    fAdd f x y = .error (.fatal .negativeNonPrimeReduce) := by
  simp [fAdd, h, hxy]

/-- Other operands are added as polynomials, by XOR, and reduced (44_field R120). -/
theorem fAdd_of_nonneg {x y : Int} (h : f.prime = false) (hx : 0 ≤ x) (hy : 0 ≤ y) :
    fAdd f x y = reduce f ((x.toNat ^^^ y.toNat : Nat) : Int) := by
  have hxy : ¬ (x < 0 ∨ y < 0) := by omega
  simp [fAdd, h, hxy]

end

/-! ### The commands -/

/-- The relation as data is not 0 when the register is not. -/
theorem field_rel_ne_zero (h : s.frel ≠ 0) : s.field.rel ≠ 0 :=
  fun h0 => h (BitVec.eq_of_toNat_eq h0)

section
variable (hfv : s.fv = true) (hfp : s.fp = false)
include hfv hfp

/-- In non-prime mode a command that reduces a negative integer goes fatal with cause 1. -/
theorem fieldOp_reduce_of_neg {n : Int} (hn : n < 0) :
    fieldOp s a Nat.cast (reduce s.field n) = .next (afterFatal s 1) := by
  rw [reduce_of_neg (f := s.field) hfp hn]
  exact fieldOp_fatal hfv _

/-- In non-prime mode a command that reduces any other integer writes its remainder as a polynomial. -/
theorem fieldOp_reduce_of_nonneg (hrel : s.frel ≠ 0) {n : Int} (hn : 0 ≤ n) :
    ∃ r : Nat, IsPolyRemainder n.toNat s.frel.toNat r ∧
      fieldOp s a Nat.cast (reduce s.field n) = .next (afterX s a r) := by
  obtain ⟨r, hr, hrem⟩ := reduce_of_nonneg (f := s.field) hfp (field_rel_ne_zero hrel) hn
  refine ⟨r, hrem, ?_⟩
  rw [hr]
  exact fieldOp_natCast_ok hfv (hrem.lt_two_pow s.frel.isLt)

/-- `FNEG` in non-prime mode: a negative operand (44_field R124). -/
theorem fieldOp_fNeg_of_neg {n : Int} (hn : n < 0) :
    fieldOp s a id (fNeg s.field n) = .next (afterFatal s 1) := by
  rw [fNeg_of_error (reduce_of_neg (f := s.field) hfp hn)]
  exact fieldOp_fatal hfv _

/-- `FNEG` in non-prime mode: the integer difference of `FBASE` and the remainder (90_conflicts C3),
which fits as both do. -/
theorem fieldOp_fNeg_of_isPolyRemainder (hrel : s.frel ≠ 0) {n : Int} (hn : 0 ≤ n) {r : Nat}
    (hr : IsPolyRemainder n.toNat s.frel.toNat r) :
    fieldOp s a id (fNeg s.field n) =
      .next (afterX s a (if r = 0 then 0 else (s.fbase.toNat : Int) - r)) := by
  have hrlt : r < 2 ^ w := hr.lt_two_pow s.frel.isLt
  have hbase : s.fbase.toNat < 2 ^ w := s.fbase.isLt
  rw [fNeg_of_ok (reduce_of_isPolyRemainder (f := s.field) hfp (field_rel_ne_zero hrel) hn hr)]
  refine fieldOp_ok hfv (toInt := id) ?_
  show (if r = 0 then 0 else (s.fbase.toNat : Int) - r).natAbs < 2 ^ w
  split <;> omega

end

/-! ### The characteristic (44_field R130, R131) -/

/-- `FCHAR` writes the characteristic, which must fit, and the cache where R131 says so. -/
theorem exec_fchar_of_fChar {s : State} {a : RegIdx} {v : Nat} (hfv : s.fv = true)
    (hv : fChar s.field (if s.chv then some s.fchr.toNat else none) = .ok v)
    (hfits : v < 2 ^ Config.W) :
    exec (.fchar a) s = .next ((fillCharCache s v).writeX a v).endSuccess := by
  have hcommit : commitX (fillCharCache s v) a v = .ok ((fillCharCache s v).writeX a v) :=
    commitX_eq_ok.mpr ⟨hfits, rfl⟩
  change execFchar a s = _
  simp only [execFchar, requireField, hfv, require_true, alg_ok_bind, hv, hcommit]
  rfl

/-- The cache is not written in prime mode, nor when it is filled. -/
theorem fillCharCache_of_keep {v : Nat} (h : s.fp = true ∨ s.chv = true) : fillCharCache s v = s := by
  rcases h with h | h <;> simp [fillCharCache, h]

/-- The cache is filled the first time in non-prime mode. -/
theorem fillCharCache_of_empty {v : Nat} (hfp : s.fp = false) (hchv : s.chv = false) :
    fillCharCache s v = { s with fchr := BitVec.ofNat w v, chv := true } := by
  simp [fillCharCache, hfp, hchv]

section
variable {f : FieldCfg}

theorem fChar_prime (h : f.prime = true) (cached : Option Nat) : fChar f cached = .ok f.base := by
  simp [fChar, h]

theorem fChar_cached (h : f.prime = false) (v : Nat) : fChar f (some v) = .ok v := by
  simp [fChar, h]

/-- The self-addition loop runs when nothing is cached. -/
theorem fChar_uncached (h : f.prime = false) (hrel : f.rel ≠ 0) :
    fChar f none = .ok (if f.rel = 1 then 1 else 2) := by
  rw [← charLoop_eq h hrel]
  simp [fChar, h]

end
end Sys2Proof.Machine

section
open Sys2Proof Sys2Proof.Machine

/-- Settles O45: the four commands reduce, or stop at a negative operand. -/
theorem nonPrimeRingCommands : Obligations.NonPrimeRingCommands := by
  intro s a b c hfv hfp hrel
  rw [exec_fred, exec_fadd, exec_fmul, exec_fneg]
  refine ⟨fun hb => ?_, fun hb => ?_, fun hbc => ?_, fun hb hc => ?_, fun hbc => ?_, fun hbc => ?_⟩
  · exact ⟨fieldOp_reduce_of_neg hfv hfp hb, fieldOp_fNeg_of_neg hfv hfp hb⟩
  · obtain ⟨r, hr, hfred⟩ := fieldOp_reduce_of_nonneg (a := a) hfv hfp hrel hb
    exact ⟨r, hr, hfred, fieldOp_fNeg_of_isPolyRemainder hfv hfp hrel hb hr⟩
  · rw [fAdd_of_neg (f := s.field) hfp hbc]
    exact fieldOp_fatal hfv _
  · rw [fAdd_of_nonneg (f := s.field) hfp hb hc]
    exact fieldOp_reduce_of_nonneg hfv hfp hrel (Int.natCast_nonneg _)
  · exact fieldOp_reduce_of_neg hfv hfp hbc
  · exact fieldOp_reduce_of_nonneg hfv hfp hrel hbc

/-- Settles O46: the residue of the operand, the sign of its Bézout coefficient, and the sign of the
product with the inverse decide how the two commands end. -/
theorem nonPrimeInverseCommands : Obligations.NonPrimeInverseCommands := by
  intro s a b c r x hfv hfp hrel
  have hrel0 := field_rel_ne_zero hrel
  refine ⟨fun hc => ?_, fun hc hr hx => ?_⟩
  · exact exec_inverse_of_fatal hfv (fInv_of_error (reduce_of_neg (f := s.field) hfp hc)) a b
  have hred : reduce s.field (s.readX c) = .ok r :=
    reduce_of_isPolyRemainder (f := s.field) hfp hrel0 hc hr
  have hinv (hr0 : r ≠ 0) : fInv s.field (s.readX c) = reduce s.field x :=
    hx ▸ fInv_of_ne_zero hred hr0
  refine ⟨fun hr0 => ?_, fun hr0 hneg => ?_, fun hr0 hnonneg => ?_⟩
  · exact exec_inverse_of_noInverse hfv (fInv_of_zero (hr0 ▸ hred)) a b
  · exact exec_inverse_of_fatal hfv ((hinv hr0).trans (reduce_of_neg (f := s.field) hfp hneg)) a b
  · obtain ⟨v, hv, hrem⟩ := reduce_of_nonneg (f := s.field) hfp hrel0 hnonneg
    have hinvv := (hinv hr0).trans hv
    rw [exec_finv, exec_fdiv, hinvv, fDiv_of_ok hinvv]
    exact ⟨v, hrem, fieldOp_natCast_ok hfv (hrem.lt_two_pow s.frel.isLt),
      fun hneg => fieldOp_reduce_of_neg hfv hfp hneg,
      fun hprod => fieldOp_reduce_of_nonneg hfv hfp hrel hprod⟩

/-- Settles O47: the base, the cached value, or the count of the self-addition loop. -/
theorem fcharWritesTheCharacteristic : Obligations.FcharWritesTheCharacteristic := by
  intro s a hfv
  refine ⟨fun hfp => ?_, fun hfp hchv => ?_, fun hfp hchv hrel => ?_⟩
  · rw [exec_fchar_of_fChar hfv (fChar_prime (f := s.field) hfp _) s.fbase.isLt,
      fillCharCache_of_keep (.inl hfp)]
    rfl
  · rw [exec_fchar_of_fChar hfv (by rw [if_pos hchv]; exact fChar_cached hfp _) s.fchr.isLt,
      fillCharCache_of_keep (.inr hchv)]
    rfl
  · have hone : s.field.rel = 1 ↔ s.frel = 1 := BitVec.toNat_inj (y := 1)
    have hchar : fChar s.field (if s.chv then some s.fchr.toNat else none) =
        .ok (if s.frel = 1 then 1 else 2) := by
      rw [hchv, if_neg Bool.false_ne_true, fChar_uncached hfp (field_rel_ne_zero hrel)]
      simp only [hone]
    have hfits : (if s.frel = 1 then 1 else 2) < 2 ^ Config.W := by split <;> decide
    refine ⟨_, rfl, ?_⟩
    rw [exec_fchar_of_fChar hfv hchar hfits, fillCharCache_of_empty hfp hchv]
    rfl

end
end

section
/-!
PROOFS of the sqrt family: the field that `FSQRT` and `ECNEW` need (45_sqrt R140, 46_curve R150), and the
square root (45_sqrt R141 to R144). The loop of R141 keeps `a^(2^(l-i)*t) * b^(2*n_i) = 1`, where `n_i` is a
multiple of `2^(l-i)`: a factor -1 of the square root of this product is repaired by `b^((p-1)/2) = -1`. At
`i = l` it says `a^t * b^(2*n_l) = 1`, and `t` is odd, so `a^((t+1)/2) * b^(n_l)` is a square root of `a`.
-/
namespace Sys2Proof.Machine

variable {w : Nat} {s : State w}

/-! ### Fields that a command does not support (45_sqrt R140, 46_curve R150) -/

/-- With a field the check of 44_field R112 does not stop the command. -/
theorem requireField_bind {α : Type} (hfv : s.fv = true) (f : Unit → Alg α) :
    (requireField s >>= f) = f () := by
  rw [requireField, hfv, require_true, alg_ok_bind]

theorem execFsqrt_unsupported {a b : RegIdx} (c : RegIdx) (hab : a ≠ b) (hfv : s.fv = true)
    (h : s.fp = false ∨ s.fbase = 2) : execFsqrt a b c s = .next (afterError s 14) := by
  have hcheck : (s.fp && s.fbase != 2) = false := by
    rcases h with hfp | hbase
    · rw [hfp, Bool.false_and]
    · rw [bne_eq_false_iff_eq.mpr hbase, Bool.and_false]
  rw [execFsqrt, requireDistinct_bind hab, requireField_bind hfv, hcheck]
  exact command_raised (e := .unsupportedField) rfl

theorem execEcnew_unsupported (b c : RegIdx) (hfv : s.fv = true) (hfp : s.fp = false) :
    execEcnew b c s = .next (afterError s 14) := by
  rw [execEcnew, requireField_bind hfv, hfp]
  exact command_raised (e := .unsupportedField) rfl

/-! ### The loops of `f_sqrt` (45_sqrt R141) -/

/-- For a modulus from 2 on `pow_mod` has no exception at exponent 0. -/
theorem powMod_of_one_lt (b e : Nat) {m : Nat} (hm : 1 < m) : powMod b e m = b ^ e % m := by
  rw [powMod_eq]
  split_ifs with he
  · rw [he, pow_zero, Nat.mod_eq_of_lt hm]
  · rfl

/-- The halving loop splits a number into a power of 2 and an odd factor. -/
theorem halveLoop_spec {fuel h : Nat} (l : Nat) (hpos : 0 < h) (hfuel : h < 2 ^ fuel) :
    2 ^ (halveLoop fuel h l).1 * (halveLoop fuel h l).2 = 2 ^ l * h ∧
      (halveLoop fuel h l).2 % 2 = 1 := by
  induction fuel generalizing h l with
  | zero => omega
  | succ fuel ih =>
    unfold halveLoop
    split_ifs with heven
    · obtain ⟨hprod, hodd⟩ := ih (h := h / 2) (l + 1) (by omega) (by omega)
      refine ⟨hprod.trans ?_, hodd⟩
      rw [pow_succ, mul_assoc, Nat.mul_div_cancel' (Nat.dvd_of_mod_eq_zero heven)]
    · exact ⟨rfl, by omega⟩

/-- If there is a non-residue in its range, the scan ends with the least one. -/
theorem scanNonResidue_least {p d : Nat} (hd : powMod d ((p - 1) / 2) p = p - 1) {fuel c : Nat}
    (hcd : c ≤ d) (hfuel : d < c + fuel) :
    ∃ b, scanNonResidue p fuel c = some b ∧ powMod b ((p - 1) / 2) p = p - 1 ∧
      ∀ x, c ≤ x → x < b → powMod x ((p - 1) / 2) p ≠ p - 1 := by
  induction fuel generalizing c with
  | zero => omega
  | succ fuel ih =>
    unfold scanNonResidue
    split_ifs with hc
    · exact ⟨c, rfl, hc, fun x hcx hxc => absurd hxc (not_lt.mpr hcx)⟩
    · have hne : c ≠ d := fun h => hc (h ▸ hd)
      obtain ⟨b, hscan, hb, hleast⟩ := ih (c := c + 1) (by omega) (by omega)
      refine ⟨b, hscan, hb, fun x hcx hxb => ?_⟩
      rcases hcx.eq_or_lt with rfl | hlt
      · exact hc
      · exact hleast x hlt hxb

/-- The exponents `n_0`, `n_1`, … of R141. -/
def sqrtExponent (p a b l t : Nat) : Nat → Nat
  | 0 => 0
  | i + 1 => sqrtExponent p a b l t i / 2 +
      if a ^ (2 ^ (l - i - 1) * t) * b ^ sqrtExponent p a b l t i % p = 1 then 0 else (p - 1) / 4

/-- The `c_i` loop, entered with `k` iterations left and their exponent, ends with the exponent `n_l`. -/
theorem sqrtLoop_eq_sqrtExponent {p : Nat} (hp : 1 < p) (a b t : Nat) {l k : Nat} (hk : k ≤ l) :
    sqrtLoop a b t p k (sqrtExponent p a b l t (l - k)) = sqrtExponent p a b l t l := by
  induction k with
  | zero => rfl
  | succ k ih =>
    obtain ⟨i, rfl⟩ : ∃ i, l = k + 1 + i := Nat.exists_eq_add_of_le hk
    have hnext := ih (by omega)
    rw [show k + 1 + i - k = i + 1 by omega, sqrtExponent,
      show k + 1 + i - i - 1 = k by omega] at hnext
    rw [show k + 1 + i - (k + 1) = i by omega, ← hnext, sqrtLoop, powMod_of_one_lt _ _ hp,
      powMod_of_one_lt _ _ hp, ← Nat.mul_mod]
    split_ifs <;> rfl

/-! ### Residues modulo a prime -/

theorem mod_eq_one_iff_zmod {p : Nat} (hp : 1 < p) (x : Nat) : x % p = 1 ↔ (x : ZMod p) = 1 := by
  have h := ZMod.natCast_eq_natCast_iff' x 1 p
  rw [Nat.mod_eq_of_lt hp, Nat.cast_one] at h
  exact h.symm

theorem mod_eq_pred_iff_zmod {p : Nat} (hp : 0 < p) (x : Nat) :
    x % p = p - 1 ↔ (x : ZMod p) = -1 := by
  have hpred : ((p - 1 : Nat) : ZMod p) = -1 := by
    rw [Nat.cast_sub hp, ZMod.natCast_self, Nat.cast_one, zero_sub]
  rw [← hpred, ZMod.natCast_eq_natCast_iff', Nat.mod_eq_of_lt (Nat.sub_lt hp one_pos)]

/-- Being a square in the field, as the statement says it of integers. -/
theorem isSquare_zmod_iff {p : Nat} (hp : 0 < p) (x : Int) :
    IsSquare (x : ZMod p) ↔ ∃ y : Nat, ((y * y : Nat) : Int) % p = x % p := by
  have : NeZero p := ⟨hp.ne'⟩
  constructor
  · rintro ⟨y, hy⟩
    refine ⟨y.val, (ZMod.intCast_eq_intCast_iff' _ _ _).mp ?_⟩
    push_cast
    rw [ZMod.natCast_zmod_val, hy]
  · rintro ⟨y, hy⟩
    refine ⟨y, ?_⟩
    have hcast := (ZMod.intCast_eq_intCast_iff' _ _ _).mpr hy
    push_cast at hcast
    exact hcast.symm

section
variable {p : Nat} (hp : p.Prime) (hodd : p ≠ 2)
include hp hodd

theorem pred_half_eq : (p - 1) / 2 = p / 2 := by
  have := hp.eq_two_or_odd
  omega

/-- Euler's criterion: step 1 of R141 passes exactly the squares that are not zero. -/
theorem residueTest_iff (a : Nat) :
    powMod a ((p - 1) / 2) p = 1 ↔ (a : ZMod p) ≠ 0 ∧ IsSquare (a : ZMod p) := by
  have : Fact p.Prime := ⟨hp⟩
  have hpos : p / 2 ≠ 0 := by have := hp.two_le; omega
  rw [powMod_of_one_lt _ _ hp.one_lt, mod_eq_one_iff_zmod hp.one_lt, Nat.cast_pow,
    pred_half_eq hp hodd]
  by_cases ha : (a : ZMod p) = 0
  · simp [ha, hpos]
  · simp [ha, ZMod.euler_criterion p ha]

/-- 45_sqrt R142 (c): an odd prime has a non-residue. -/
theorem exists_nonResidue : ∃ d < p, powMod d ((p - 1) / 2) p = p - 1 := by
  have : Fact p.Prime := ⟨hp⟩
  obtain ⟨d, hd⟩ := FiniteField.exists_nonsquare (F := ZMod p) (by rwa [ZMod.ringChar_zmod_n])
  have hd0 : d ≠ 0 := by rintro rfl; exact hd (IsSquare.zero)
  refine ⟨d.val, d.val_lt, ?_⟩
  rw [powMod_of_one_lt _ _ hp.one_lt, mod_eq_pred_iff_zmod hp.pos, Nat.cast_pow,
    ZMod.natCast_zmod_val, pred_half_eq hp hodd]
  exact (ZMod.pow_div_two_eq_neg_one_or_one p hd0).resolve_left
    ((ZMod.euler_criterion p hd0).not.mp hd)

end

/-! ### The first root of R141 is a square root -/

/-- One turn of the loop keeps the invariant: half of the exponent takes the square root of the product,
and `b^(2*q) = -1` repairs its sign. -/
theorem sqrtInvariant_step {F : Type} [Field F] {a b : F} {k t n n' q : Nat} (hq : b ^ (2 * q) = -1)
    (hqdvd : 2 ^ k ∣ q) (hdvd : 2 ^ (k + 1) ∣ n) (hinv : a ^ (2 ^ (k + 1) * t) * b ^ (2 * n) = 1)
    (hstep : a ^ (2 ^ k * t) * b ^ n = 1 ∧ n' = n / 2 ∨
      a ^ (2 ^ k * t) * b ^ n ≠ 1 ∧ n' = n / 2 + q) :
    2 ^ k ∣ n' ∧ a ^ (2 ^ k * t) * b ^ (2 * n') = 1 := by
  obtain ⟨m, rfl⟩ := hdvd
  have hhalf : 2 ^ (k + 1) * m / 2 = 2 ^ k * m := by
    rw [pow_succ', mul_assoc, Nat.mul_div_cancel_left _ two_pos]
  have hdouble : 2 * (2 ^ k * m) = 2 ^ (k + 1) * m := by rw [pow_succ', mul_assoc]
  rw [hhalf] at hstep
  rcases hstep with ⟨hone, rfl⟩ | ⟨hne, rfl⟩
  · exact ⟨Dvd.intro m rfl, by rw [hdouble, hone]⟩
  · have hsq : (a ^ (2 ^ k * t) * b ^ (2 ^ (k + 1) * m)) ^ 2 = 1 := by
      rw [← hinv]
      ring
    have hneg := (sq_eq_one_iff.mp hsq).resolve_left hne
    refine ⟨(Dvd.intro m rfl).add hqdvd, ?_⟩
    rw [mul_add, hdouble, pow_add, hq, ← mul_assoc, hneg, neg_one_mul, neg_neg]

/-- The invariant of the `c_i` loop along the exponents `n_0`, …, `n_l` that the first root is made of. -/
theorem sqrtInvariant {p a b l t : Nat} {n : Nat → Nat} (hp : p.Prime)
    (hsplit : (p - 1) / 2 = 2 ^ l * t) (ha : (a : ZMod p) ^ ((p - 1) / 2) = 1)
    (hb : (b : ZMod p) ^ ((p - 1) / 2) = -1) (hzero : n 0 = 0)
    (hstep : ∀ i < l, n (i + 1) =
      n i / 2 + if a ^ (2 ^ (l - i - 1) * t) * b ^ n i % p = 1 then 0 else (p - 1) / 4)
    {i : Nat} (hi : i ≤ l) :
    2 ^ (l - i) ∣ n i ∧ (a : ZMod p) ^ (2 ^ (l - i) * t) * (b : ZMod p) ^ (2 * n i) = 1 := by
  have : Fact p.Prime := ⟨hp⟩
  induction i with
  | zero => simp [hzero, ← hsplit, ha]
  | succ i ih =>
    obtain ⟨k, rfl⟩ : ∃ k, l = i + 1 + k := Nat.exists_eq_add_of_le hi
    obtain ⟨hdvd, hprod⟩ := ih (by omega)
    rw [show i + 1 + k - i = k + 1 by omega] at hdvd hprod
    have hhalf : 2 * ((p - 1) / 4) = (p - 1) / 2 := by
      rw [show i + 1 + k = i + k + 1 by omega, pow_succ', mul_assoc] at hsplit
      omega
    have hquarter : (p - 1) / 4 = 2 ^ k * (2 ^ i * t) := by
      refine Nat.eq_of_mul_eq_mul_left two_pos ?_
      rw [hhalf, hsplit]
      ring
    rw [show i + 1 + k - (i + 1) = k by omega]
    refine sqrtInvariant_step (by rw [hhalf, hb]) (Dvd.intro _ hquarter.symm) hdvd hprod ?_
    have hnext := hstep i (by omega)
    simp only [show i + 1 + k - i - 1 = k by omega, mod_eq_one_iff_zmod hp.one_lt] at hnext
    push_cast at hnext
    split_ifs at hnext with hone
    · exact .inl ⟨hone, hnext⟩
    · exact .inr ⟨hone, hnext⟩

/-- 45_sqrt R144: the root that R141 fixes squares to `a`, whenever `a` passes the residue test. -/
theorem IsFirstRoot.sq_zmod {p a root : Nat} (hp : p.Prime) (h : IsFirstRoot p a root)
    (ha : (a : ZMod p) ^ ((p - 1) / 2) = 1) : (root : ZMod p) ^ 2 = a := by
  obtain ⟨l, t, b, n, hsplit, htodd, hb, -, hzero, hstep, rfl⟩ := h
  rw [mod_eq_pred_iff_zmod hp.pos, Nat.cast_pow] at hb
  have hlast := (sqrtInvariant hp hsplit ha hb hzero hstep le_rfl).2
  rw [Nat.sub_self, pow_zero, one_mul] at hlast
  rw [ZMod.natCast_mod]
  push_cast
  calc ((a : ZMod p) ^ ((t + 1) / 2) * (b : ZMod p) ^ n l) ^ 2
      = (a : ZMod p) ^ (2 * ((t + 1) / 2)) * (b : ZMod p) ^ (2 * n l) := by ring
    _ = a * ((a : ZMod p) ^ t * (b : ZMod p) ^ (2 * n l)) := by
        rw [show 2 * ((t + 1) / 2) = t + 1 by omega]; ring
    _ = a := by rw [hlast, mul_one]

/-- The root that R141 fixes is a residue modulo `p`. -/
theorem IsFirstRoot.lt {p a root : Nat} (hp : 0 < p) (h : IsFirstRoot p a root) : root < p := by
  obtain ⟨l, t, b, n, -, -, -, -, -, -, rfl⟩ := h
  exact Nat.mod_lt _ hp

/-- The two residues `r` and `p - r` have one square. -/
theorem sub_sq_zmod {p r : Nat} (h : r ≤ p) : ((p - r : Nat) : ZMod p) ^ 2 = (r : ZMod p) ^ 2 := by
  rw [Nat.cast_sub h, ZMod.natCast_self, zero_sub, neg_sq]

/-- A square in the field, as the statement says it of integers. -/
theorem emod_eq_of_sq_zmod {p r : Nat} {x : Int} (h : (r : ZMod p) ^ 2 = x) :
    ((r * r : Nat) : Int) % p = x % p := by
  refine (ZMod.intCast_eq_intCast_iff' _ _ _).mp ?_
  push_cast
  rw [← sq, h]

/-! ### `f_sqrt` (45_sqrt R141) -/

/-- R143: the simple branch, which only `p = 3` takes; there `(p-1)/2 = 1` and the root is `a` itself. -/
theorem isFirstRoot_three (a : Nat) : IsFirstRoot 3 a (powMod a ((3 + 1) / 4) 3) :=
  ⟨0, 1, 2, fun _ => 0, rfl, rfl, rfl, by decide, rfl, fun _ h => absurd h (Nat.not_lt_zero _), by
    simp [powMod_of_one_lt]⟩

section
variable {f : FieldCfg} {a : Nat}

/-- Step 1 of R141: what fails the residue test has no root. -/
theorem fSqrt_of_no_residue (h : powMod a ((f.base - 1) / 2) f.base ≠ 1) :
    fSqrt f a = .error (.raised .noRoot) := by
  rw [fSqrt, beq_eq_false_iff_ne.mpr h]
  rfl

/-- Past the residue test `f_sqrt` computes the first root, and negates it for the second. -/
theorem fSqrt_of_residue (hp : f.base.Prime) (hodd : f.base ≠ 2)
    (h : powMod a ((f.base - 1) / 2) f.base = 1) :
    ∃ root : Nat, IsFirstRoot f.base a root ∧
      fSqrt f a = fNeg f root >>= fun w2 => .ok (root, w2) := by
  have hone := hp.one_lt
  rw [fSqrt, beq_iff_eq.mpr h, require_true, alg_ok_bind]
  split_ifs with hsimple
  · have hthree : f.base = 3 := by
      have : f.base + 1 ≤ 4 := Nat.le_of_dvd (by decide) (Nat.dvd_of_mod_eq_zero hsimple)
      omega
    refine ⟨_, ?_, rfl⟩
    rw [hthree]
    exact isFirstRoot_three a
  · have hhalf : (f.base - 1) / 2 < 2 ^ bitlen f.base :=
      lt_of_le_of_lt (by omega) (lt_two_pow_bitlen f.base)
    have hsplit := halveLoop_spec 0 (by omega) hhalf
    obtain ⟨d, hdlt, hd⟩ := exists_nonResidue hp hodd
    obtain ⟨b, hscan, hb, hleast⟩ := scanNonResidue_least hd d.zero_le (by omega : d < 0 + f.base)
    simp only [hscan]
    generalize halveLoop (bitlen f.base) ((f.base - 1) / 2) 0 = lt at hsplit ⊢
    obtain ⟨l, t⟩ := lt
    obtain ⟨hprod, htodd⟩ := hsplit
    have hloop : sqrtLoop a b t f.base l 0 = sqrtExponent f.base a b l t l := by
      simpa [sqrtExponent] using sqrtLoop_eq_sqrtExponent hone a b t (le_refl l)
    simp only [powMod_of_one_lt _ _ hone] at hb hleast
    refine ⟨_, ⟨l, t, b, sqrtExponent f.base a b l t, ?_, htodd, hb, fun c => hleast c c.zero_le,
      rfl, fun _ _ => rfl, ?_⟩, rfl⟩
    · rw [hprod, pow_zero, one_mul]
    · rw [powMod_of_one_lt _ _ hone, powMod_of_one_lt _ _ hone, ← Nat.mul_mod, hloop]

/-- In prime mode `f_neg` of a residue that is not 0 is its difference to the base. -/
theorem fNeg_of_residue (h : f.prime = true) {r : Nat} (hpos : 0 < r) (hlt : r < f.base) :
    fNeg f r = .ok ((f.base : Int) - r) := by
  have hred : reduce f r = .ok r := by
    rw [reduce_prime h, Int.emod_eq_of_lt (by omega) (by exact_mod_cast hlt), Int.toNat_natCast]
  rw [fNeg_of_ok hred, if_neg hpos.ne']

/-- 45_sqrt R141, R144: for a square that is not zero `f_sqrt` answers the two roots. -/
theorem fSqrt_of_isSquare (h : f.prime = true) (hp : f.base.Prime) (hodd : f.base ≠ 2)
    (hne : (a : ZMod f.base) ≠ 0) (hsq : IsSquare (a : ZMod f.base)) :
    ∃ root : Nat, 0 < root ∧ root < f.base ∧ IsFirstRoot f.base a root ∧
      (root : ZMod f.base) ^ 2 = a ∧ fSqrt f a = .ok (root, (f.base : Int) - root) := by
  have htest := (residueTest_iff hp hodd a).mpr ⟨hne, hsq⟩
  obtain ⟨root, hfirst, hans⟩ := fSqrt_of_residue hp hodd htest
  rw [powMod_of_one_lt _ _ hp.one_lt, mod_eq_one_iff_zmod hp.one_lt, Nat.cast_pow] at htest
  have hroot := hfirst.sq_zmod hp htest
  have hpos : 0 < root := Nat.pos_of_ne_zero fun h0 => hne (by simp [← hroot, h0])
  have hlt := hfirst.lt hp.pos
  exact ⟨root, hpos, hlt, hfirst, hroot, by rw [hans, fNeg_of_residue h hpos hlt]; rfl⟩

/-- 45_sqrt R141: zero and the numbers that are no squares have no root. -/
theorem fSqrt_of_not_isSquare (hp : f.base.Prime) (hodd : f.base ≠ 2)
    (h : ¬((a : ZMod f.base) ≠ 0 ∧ IsSquare (a : ZMod f.base))) :
    fSqrt f a = .error (.raised .noRoot) :=
  fSqrt_of_no_residue ((residueTest_iff hp hodd a).not.mpr h)

end

/-! ### The command (45_sqrt R142) -/

/-- A command with two X destinations whose results fit has their writes, in this order, as its one
effect. -/
theorem command_commitX2 {a b : RegIdx} {v u : Int} (hv : v.natAbs < 2 ^ w) (hu : u.natAbs < 2 ^ w) :
    s.command (commitX2 s a b v u) = .next ((s.writeX a v).writeX b u).endSuccess := by
  rw [commitX2_eq_ok.mpr ⟨hv, hu, rfl⟩]
  rfl

/-- Past its checks `FSQRT` is `f_sqrt` and the writes of the two roots. -/
theorem execFsqrt_of_checks {a b c : RegIdx} (hab : a ≠ b) (hfv : s.fv = true) (hfp : s.fp = true)
    (hbase : s.fbase ≠ 2) (hc : 0 ≤ s.readX c) :
    execFsqrt a b c s = s.command (fSqrt s.field (s.readX c).toNat >>= fun roots =>
      commitX2 s a b roots.1 roots.2) := by
  rw [execFsqrt, requireDistinct_bind hab, requireField_bind hfv, hfp, bne_iff_ne.mpr hbase,
    requireNonneg_of_nonneg hc]
  rfl

end Sys2Proof.Machine

section
open Sys2Proof Sys2Proof.Machine

/-- Settles O25: the check of the field's kind follows the check that there is a field. -/
theorem unsupportedFieldIsRefused : Obligations.UnsupportedFieldIsRefused :=
  fun _ _ b c hfv => ⟨fun hab h => execFsqrt_unsupported c hab hfv h,
    fun hfp => execEcnew_unsupported b c hfv hfp⟩

/-- Settles O48: Euler's criterion decides which operands have roots, and the invariant of the loop of
R141 says that what it computes squares to the operand. -/
theorem fsqrtWritesBothRoots : Obligations.FsqrtWritesBothRoots := by
  intro s a b c hab hfv hfp hp hbase hc
  have hodd : s.field.base ≠ 2 := fun h => hbase (BitVec.eq_of_toNat_eq h)
  have hexec : exec (.fsqrt a b c) s = _ := execFsqrt_of_checks hab hfv hfp hbase hc
  have hcast : ((s.readX c).toNat : ZMod s.fbase.toNat) = s.readX c := by
    exact_mod_cast congrArg (Int.cast : Int → ZMod s.fbase.toNat) (Int.toNat_of_nonneg hc)
  rw [hexec, ← isSquare_zmod_iff hp.pos, Ne, emod_eq_zero_iff_zmod, ← hcast]
  constructor
  · rintro ⟨hne, hsq⟩
    obtain ⟨root, hpos, hlt, hfirst, hroot, hans⟩ :=
      fSqrt_of_isSquare (f := s.field) hfp hp hodd hne hsq
    have hfits : s.fbase.toNat < 2 ^ Config.W := s.fbase.isLt
    change root < s.fbase.toNat at hlt
    refine ⟨root, hpos, hlt, hfirst, emod_eq_of_sq_zmod (hroot.trans hcast),
      emod_eq_of_sq_zmod ((sub_sq_zmod hlt.le).trans (hroot.trans hcast)), ?_⟩
    rw [hans, alg_ok_bind]
    exact command_commitX2 (u := (s.fbase.toNat : Int) - root) (by omega) (by omega)
  · intro hnone
    rw [fSqrt_of_not_isSquare (f := s.field) hp hodd fun ⟨hne, hsq⟩ =>
      hnone.elim hne (absurd hsq)]
    rfl

end
end

section
/-!
PROOFS of the curve family, first part: what the curve commands check before they compute (46_curve R150,
R161, R164), and the commands that are done with one reduction or with none: construction (R151),
validation (R152 to R154), infinity (R155), the negative (R158, R159), readout (R162) and equality (R163).
-/
namespace Sys2Proof.Machine

variable {w : Nat} {s : State w}

/-! ### Residues -/

/-- A natural number is stored in the same way as it is as an integer. -/
theorem wordOfInt_natCast (n : Nat) : (wordOfInt n : Word w) = BitVec.ofNat w n :=
  BitVec.ofInt_natCast w n

/-- A register that stores a residue holds it. -/
theorem toNat_ofNat_residue {n x : Nat} (hn : n < 2 ^ w) (hx : x < n) : (BitVec.ofNat w x).toNat = x := by
  rw [BitVec.toNat_ofNat, Nat.mod_eq_of_lt (hx.trans hn)]

/-- A sum is a multiple of the modulus exactly when its terms are opposite as residues. -/
theorem add_mod_eq_zero_iff {n x y : Nat} : (x + y) % n = 0 ↔ (x : ZMod n) = -y := by
  rw [eq_neg_iff_add_eq_zero, ← Nat.dvd_iff_mod_eq_zero, ← ZMod.natCast_eq_zero_iff, Nat.cast_add]

/-! ### The checks of a curve command -/

/-- With a curve the check of 46_curve R150 does not stop the command. -/
theorem requireCurve_bind {α : Type} (hcv : s.cv = true) (f : Unit → Alg α) :
    (requireCurve s >>= f) = f () := by
  rw [requireCurve, hcv, require_true, alg_ok_bind]

/-- A `VALID` register does not stop the command (46_curve R164). -/
theorem sourceP_bind {α : Type} {i : RegIdx} (h : s.p[i].tag = .valid) (f : PointReg w → Alg α) :
    (sourceP s i >>= f) = f s.p[i] := by
  rw [sourceP_of_valid h, alg_ok_bind]

/-- A tag that fails its check stops the read of its register (46_curve R164). -/
theorem sourceP_of_stop {i : RegIdx} {e : Stop} (h : checkTag s.p[i].tag = .error e) :
    sourceP s i = .error e := by
  change (checkTag s.p[i].tag >>= fun _ => pure s.p[i]) = .error e
  rw [h, alg_error_bind]

/-- The one source of a command decides its error. -/
theorem source_bind_stop {α : Type} {b j : RegIdx} {before after : List RegIdx} {e : Stop}
    (hsrc : [b] = before ++ j :: after) (hj : checkTag s.p[j].tag = .error e)
    (f : PointReg w → Alg α) : (sourceP s b >>= f) = .error e := by
  cases before with
  | nil =>
    obtain ⟨rfl, -⟩ := List.cons.inj hsrc
    rw [sourceP_of_stop hj, alg_error_bind]
  | cons k before => simp at hsrc

/-- The first of two sources that fails its check decides the error. -/
theorem sources_bind_stop {α : Type} {b c j : RegIdx} {before after : List RegIdx} {e : Stop}
    (hsrc : [b, c] = before ++ j :: after) (hbefore : ∀ k ∈ before, s.p[k].tag = .valid)
    (hj : checkTag s.p[j].tag = .error e) (f : PointReg w → PointReg w → Alg α) :
    (sourceP s b >>= fun p => sourceP s c >>= f p) = .error e := by
  cases before with
  | nil =>
    obtain ⟨rfl, -⟩ := List.cons.inj hsrc
    rw [sourceP_of_stop hj, alg_error_bind]
  | cons k before =>
    obtain ⟨rfl, hrest⟩ := List.cons.inj hsrc
    rw [sourceP_bind (hbefore b List.mem_cons_self)]
    exact source_bind_stop hrest hj _

/-- 46_curve R164: a curve command whose sources are `VALID` up to one that fails its check ends with the
error of that check. -/
theorem exec_of_stale_source {i : Instr} {s : State} {before after : List RegIdx} {j : RegIdx}
    {e : TypedError} (hwf : i.wellFormed = true) (hcv : s.cv = true)
    (hsrc : pSources i = before ++ j :: after) (hbefore : ∀ k ∈ before, s.p[k].tag = .valid)
    (hj : checkTag s.p[j].tag = .error (.raised e)) : exec i s = .next (afterError s e.code) := by
  cases i with
  | ecadd a b c =>
    exact command_raised ((requireCurve_bind hcv _).trans (sources_bind_stop hsrc hbefore hj _))
  | eceq b c =>
    exact command_raised ((requireCurve_bind hcv _).trans (sources_bind_stop hsrc hbefore hj _))
  | ecneg a b => exact command_raised ((requireCurve_bind hcv _).trans (source_bind_stop hsrc hj _))
  | ecmul a b c => exact command_raised ((requireCurve_bind hcv _).trans (source_bind_stop hsrc hj _))
  | ecget a b c =>
    exact command_raised ((requireDistinct_bind (bne_iff_ne.mp hwf) _).trans
      ((requireCurve_bind hcv _).trans (source_bind_stop hsrc hj _)))
  | _ => simp [pSources] at hsrc

/-! ### Construction of a curve (46_curve R151) -/

/-- In prime mode `reduce` answers the residue. -/
theorem reduce_of_emod {f : FieldCfg} (h : f.prime = true) {n : Int} {r : Nat}
    (hr : (r : Int) = n % f.base) : reduce f n = .ok r := by
  rw [reduce_prime h, ← hr, Int.toNat_natCast]

/-- In prime mode the discriminant is `4*a^3 + 27*b^2` modulo the prime. -/
theorem discriminant_prime {f : FieldCfg} (h : f.prime = true) (a b : Nat) :
    discriminant f a b = .ok ((4 * a ^ 3 + 27 * b ^ 2) % f.base) := by
  refine reduce_of_emod h ?_
  push_cast
  ring_nf

/-- What R151 does to a tag, as a condition on it. -/
theorem Tag.afterCurve_eq (t : Tag) : t.afterCurve = if t = .valid then .staleCurve else t := by
  cases t <;> rfl

/-- A command that constructs a curve leaves the state of R151. -/
theorem command_curveCommit (a b : Nat) :
    s.command (.ok (curveCommit s a b)) = .next (afterNewCurve s a b) := by
  rw [State.command, finish_ok, curveCommit, State.retag, mapRegs_eq_map]
  simp only [Tag.afterCurve_eq]
  rfl

/-- Over a prime field `ECNEW` checks the discriminant of the residues, then stores them. -/
theorem execEcnew_prime {b c : RegIdx} {x y : Nat} (hfv : s.fv = true) (hfp : s.fp = true)
    (hx : (x : Int) = s.readX b % s.fbase.toNat) (hy : (y : Int) = s.readX c % s.fbase.toNat) :
    execEcnew b c s =
      s.command (require (decide ((4 * x ^ 3 + 27 * y ^ 2) % s.fbase.toNat ≠ 0)) .singularCurve >>=
        fun _ => pure (curveCommit s x y)) := by
  rw [execEcnew, requireField_bind hfv, hfp, require_true, alg_ok_bind,
    reduce_of_emod (f := s.field) hfp hx, alg_ok_bind, reduce_of_emod (f := s.field) hfp hy, alg_ok_bind,
    discriminant_prime (f := s.field) hfp, alg_ok_bind]
  rfl

/-! ### Validation of a point (46_curve R152 to R154) -/

/-- `ECPOINT` of two operands that are not negative writes their residues when these are on the curve. -/
theorem execEcpoint_prime {a b c : RegIdx} {x y : Nat} {f : Bool} (hcv : s.cv = true) (hfp : s.fp = true)
    (hb : 0 ≤ s.readX b) (hc : 0 ≤ s.readX c) (hx : (x : Int) = s.readX b % s.fbase.toNat)
    (hy : (y : Int) = s.readX c % s.fbase.toNat) (hf : onCurve s.curve x y = .ok f) :
    execEcpoint a b c s = s.command (require f .pointNotOnCurve >>= fun _ =>
      pure (s.writeP a (pointAffine (BitVec.ofNat w x) (BitVec.ofNat w y)))) := by
  rw [execEcpoint, requireCurve_bind hcv, requireNonneg_of_nonneg hb, requireNonneg_of_nonneg hc,
    reduce_of_emod (f := s.field) hfp hx, reduce_of_emod (f := s.field) hfp hy]
  simp only [alg_ok_bind, hf]

/-- `ECCHK` of two operands that are not negative reports whether their residues are on the curve. -/
theorem execEcchk_prime {b c : RegIdx} {x y : Nat} {f : Bool} (hcv : s.cv = true) (hfp : s.fp = true)
    (hb : 0 ≤ s.readX b) (hc : 0 ≤ s.readX c) (hx : (x : Int) = s.readX b % s.fbase.toNat)
    (hy : (y : Int) = s.readX c % s.fbase.toNat) (hf : onCurve s.curve x y = .ok f) :
    execEcchk b c s = .next { s with flag := f, err := 0, phase := .idle } := by
  rw [execEcchk, requireCurve_bind hcv, requireNonneg_of_nonneg hb, requireNonneg_of_nonneg hc,
    reduce_of_emod (f := s.field) hfp hx, reduce_of_emod (f := s.field) hfp hy]
  simp only [alg_ok_bind, hf]
  rfl

/-! ### The negative of a point (46_curve R158, R159) -/

/-- In prime mode `p_neg` of an affine point negates the second coordinate modulo the prime. -/
theorem pNeg_affine {c : CurveCfg} {p : PointReg w} (hprime : c.field.prime = true)
    (hpos : 0 < c.field.base) (hp : p.inf = false) :
    ∃ v : Nat, v < c.field.base ∧ (v + p.s.toNat) % c.field.base = 0 ∧
      pNeg c p = .ok (pointAffine p.r (BitVec.ofNat w v)) := by
  obtain ⟨v, hv, hlt, hneg⟩ := fNeg_zmod hprime hpos (p.s.toNat : Int)
  refine ⟨v, hlt, add_mod_eq_zero_iff.mpr (hneg.trans (by push_cast; rfl)), ?_⟩
  rw [pNeg, hp, hv, ← wordOfInt_natCast]
  rfl

/-- `ECNEG` of a valid register writes what `p_neg` answers. -/
theorem exec_ecneg_of_pNeg {s : State} {a b : RegIdx} {q : PointReg} (hcv : s.cv = true)
    (hb : s.p[b].tag = .valid) (hq : pNeg s.curve s.p[b] = .ok q) :
    exec (.ecneg a b) s = .next (afterP s a q) := by
  change execEcneg a b s = _
  rw [execEcneg, requireCurve_bind hcv, sourceP_bind hb, hq]
  rfl

/-! ### Readout and equality (46_curve R162, R163) -/

/-- 10_state R26: two points are equal when both are infinity, or neither is and their coordinates
agree. -/
theorem pEq_iff (p q : PointReg w) : pEq p q = true ↔
    (p.inf = true ∧ q.inf = true) ∨ (p.inf = false ∧ q.inf = false ∧ p.r = q.r ∧ p.s = q.s) := by
  simp [pEq, and_assoc]

/-- `ECGET` of a valid register copies its coordinates, which fit, and its marker. -/
theorem execEcget_of_valid {a b c : RegIdx} (hab : a ≠ b) (hcv : s.cv = true)
    (hc : s.p[c].tag = .valid) : execEcget a b c s =
      .next { s with
        x := (s.x.set a (SignMag.ofInt s.p[c].r.toNat)).set b (SignMag.ofInt s.p[c].s.toNat),
        flag := s.p[c].inf, err := 0, phase := .idle } := by
  have hr : (s.p[c].r.toNat : Int).natAbs < 2 ^ w := s.p[c].r.isLt
  have ht : (s.p[c].s.toNat : Int).natAbs < 2 ^ w := s.p[c].s.isLt
  rw [execEcget, requireDistinct_bind hab, requireCurve_bind hcv, sourceP_bind hc,
    commitX2_eq_ok.mpr ⟨hr, ht, rfl⟩]
  rfl

/-- `ECEQ` of valid registers sets `FLAG` to their equality. -/
theorem execEceq_of_valid {b c : RegIdx} (hcv : s.cv = true) (hb : s.p[b].tag = .valid)
    (hc : s.p[c].tag = .valid) :
    execEceq b c s = .next { s with flag := pEq s.p[b] s.p[c], err := 0, phase := .idle } := by
  rw [execEceq, requireCurve_bind hcv, sourceP_bind hb, sourceP_bind hc]
  rfl

/-- `ECMUL` of a valid point of the curve by a scalar below 1 stops at the scalar's check, the last one
(46_curve R161). -/
theorem execEcmul_of_small_scalar {a b c : RegIdx} (hcv : s.cv = true) (hb : s.p[b].tag = .valid)
    (hon : checkOnCurve s.curve s.p[b] = .ok ()) (hc : s.readX c < 1) :
    execEcmul a b c s = .next (afterError s 9) := by
  rw [execEcmul, requireCurve_bind hcv, sourceP_bind hb, hon, alg_ok_bind,
    decide_eq_false (not_le.mpr hc)]
  rfl

end Sys2Proof.Machine

section
open Sys2Proof Sys2Proof.Machine

/-- Settles O26: the sources are checked in order, each by its tag alone. -/
theorem stalePointsAreRefused : Obligations.StalePointsAreRefused := by
  intro i s before after j hwf hcv hsrc hbefore
  have hstop {e : TypedError} := exec_of_stale_source (e := e) hwf hcv hsrc hbefore
  refine ⟨fun hj => hstop (e := .notConfigured) ?_, fun hj => hstop (e := .pointsNotSameField) ?_,
    fun hj => hstop (e := .pointsNotSameCurve) ?_⟩
  all_goals
    rw [hj]
    rfl

/-- Settles O49: the discriminant of the residues decides, and they are what is stored. -/
theorem curveConstruction : Obligations.CurveConstruction := by
  intro s b c x y hfv hfp _ hx hy
  have hexec : exec (.ecnew b c) s = _ := execEcnew_prime hfv hfp hx hy
  rw [hexec]
  constructor
  · intro hsingular
    rw [decide_eq_false (not_not.mpr hsingular)]
    rfl
  · intro hregular
    rw [decide_eq_true hregular, require_true, alg_ok_bind]
    exact command_curveCommit ..

/-- Settles O50: both commands decide the curve equation of the residues. -/
theorem pointValidation : Obligations.PointValidation := by
  intro s a b c x y hcv hfp _ hb hc hx hy
  obtain ⟨f, hf, hiff⟩ := onCurve_prime (c := s.curve) hfp x y
  have hpoint : exec (.ecpoint a b c) s = _ := execEcpoint_prime hcv hfp hb hc hx hy hf
  have hcheck : exec (.ecchk b c) s = _ := execEcchk_prime hcv hfp hb hc hx hy hf
  rw [hpoint, hcheck]
  constructor
  · intro hon
    rw [hiff.mpr hon]
    exact ⟨rfl, rfl⟩
  · intro hoff
    rw [Bool.eq_false_iff.mpr (hiff.not.mpr hoff)]
    exact ⟨rfl, rfl⟩

/-- Settles O51: once there is a curve, `ECINF` has no other check. -/
theorem ecinfWritesInfinity : Obligations.EcinfWritesInfinity := by
  intro s a hcv
  change execEcinf a s = _
  rw [execEcinf, requireCurve_bind hcv]
  rfl

/-- Settles O56: `p_neg` of infinity and of an affine point. -/
theorem ecnegNegatesThePoint : Obligations.EcnegNegatesThePoint := by
  intro s a b hcv hfp hpos hb
  constructor
  · intro hinf
    exact exec_ecneg_of_pNeg hcv hb (by rw [pNeg, hinf]; rfl)
  · intro haff
    obtain ⟨v, hlt, hsum, hneg⟩ := pNeg_affine (c := s.curve) hfp hpos haff
    exact ⟨v, hlt, hsum, exec_ecneg_of_pNeg hcv hb hneg⟩

/-- Settles O59: under the invariant a valid point passes the check that comes before the scalar's. -/
theorem scalarBelowOneIsRefused : Obligations.ScalarBelowOneIsRefused := by
  intro s a b c hinv hcv hb hc
  exact execEcmul_of_small_scalar hcv hb
    (checkOnCurve_of_isCurvePoint (hinv.isPrimeCurve hcv) (hinv.isCurvePoint hb)) hc

/-- Settles O60: coordinates always fit in a data register, and `p_eq` does not read the tag. -/
theorem pointReadoutAndEquality : Obligations.PointReadoutAndEquality := by
  intro s a b c d hcv hc
  exact ⟨fun hab => execEcget_of_valid hab hcv hc,
    fun hd => ⟨_, execEceq_of_valid hcv hc hd, pEq_iff _ _⟩⟩

end
end

section
/-!
PROOFS of the curve family, second part: the addition law of 46_curve R156 over a prime field, case by
case. For two affine points the law is the third point of a line, reflected (`lineSum`), or infinity; which
of them, and the line's slope, is decided by the residues alone, on the curve or off it.
-/
namespace Sys2Proof.Machine

variable {w : Nat} {c : CurveCfg} {p q : PointReg w}

/-! ### The line through two points -/

/-- The last steps of cases 3 and 6 of R156: the slope, as a quotient of the field, and `finish`. -/
def lineSum (c : CurveCfg) (p q : PointReg w) (num den : Int) : Alg (PointReg w) := do
  let m ← fDiv c.field num den
  addFinish c p.r.toNat p.s.toNat q.r.toNat m

/-- `m`, `r3` and `s3` are residues, and `(r3, s3)` is the reflected third point of the line with slope `m`
through the first of two points. -/
structure IsLineSum (c : CurveCfg) (p q : PointReg w) (m r3 s3 : Nat) : Prop where
  mLt : m < c.field.base
  rLt : r3 < c.field.base
  sLt : s3 < c.field.base
  rEq : (r3 : ZMod c.field.base) = m * m - p.r.toNat - q.r.toNat
  sEq : (s3 : ZMod c.field.base) =
    -(m * m * m - 2 * m * p.r.toNat - m * q.r.toNat + p.s.toNat)

/-- A line whose slope has a denominator that is not zero in the field gives a third point. -/
theorem lineSum_zmod (hc : IsPrimeCurve w c) (p q : PointReg w) (num : Int) {den : Int}
    (hden : (den : ZMod c.field.base) ≠ 0) :
    ∃ m r3 s3 : Nat, lineSum c p q num den = .ok (pointAffine (BitVec.ofNat w r3) (BitVec.ofNat w s3)) ∧
      (m * den : ZMod c.field.base) = num ∧ IsLineSum c p q m r3 s3 := by
  obtain ⟨m, hm, hmlt, hslope⟩ := fDiv_zmod hc.prime hc.basePrime num hden
  obtain ⟨r3, s3, hadd, hr, hs, hreq, hseq⟩ := addFinish_zmod hc p.r.toNat p.s.toNat q.r.toNat m
  push_cast at hreq hseq
  refine ⟨m, r3, s3, ?_, hslope, hmlt, hr, hs, hreq, hseq⟩
  rw [lineSum, hm, alg_ok_bind, hadd, wordOfInt_natCast, wordOfInt_natCast]

/-! ### The cases of two affine points -/

/-- Different first coordinates: the chord. -/
theorem addAffine_of_r_ne (h : p.r.toNat ≠ q.r.toNat) : addAffine c p q =
    lineSum c p q ((q.s.toNat : Int) - p.s.toNat) ((q.r.toNat : Int) - p.r.toNat) := by
  rw [addAffine, if_pos (by exact_mod_cast h)]
  rfl

/-- A residue is the model's negative of another one exactly when they add to a multiple of the prime. -/
theorem eq_fNeg_iff_add {f : FieldCfg} (hprime : f.prime = true) {x : Nat} (hx : x < f.base) (y : Nat) :
    ∃ n : Nat, fNeg f y = .ok n ∧ (x = n ↔ (x + y) % f.base = 0) := by
  obtain ⟨n, hn, hlt, hneg⟩ := fNeg_zmod hprime (Nat.zero_lt_of_lt hx) (y : Int)
  refine ⟨n, hn, ?_⟩
  rw [← residue_eq_iff hx hlt, hneg, Int.cast_natCast, add_mod_eq_zero_iff]

/-- Equal first coordinates: opposite points, the tangent, or the fall-through. Case 5 of R156, two points
of order 2, is among the opposite points. -/
theorem addAffine_of_r_eq (hprime : c.field.prime = true) (hr : p.r.toNat = q.r.toNat)
    (hs : p.s.toNat < c.field.base) : addAffine c p q =
      if (p.s.toNat + q.s.toNat) % c.field.base = 0 then .ok pointInf
      else if p.s.toNat = q.s.toNat then
        lineSum c p q (3 * ((p.r.toNat : Int) * p.r.toNat) + c.a) (2 * (p.s.toNat : Int))
      else fatal .addCaseFallThrough := by
  obtain ⟨n, hn, hiff⟩ := eq_fNeg_iff_add hprime hs q.s.toNat
  rw [addAffine, if_neg (by simpa using hr)]
  simp only [hn, alg_ok_bind, Int.natCast_inj, hiff]
  split_ifs with hopp hzero hsame hsame
  · rfl
  · exact absurd (by simp [← hzero.1, Int.natCast_eq_zero.mp hzero.2]) hopp
  · exact absurd hzero.1 hsame
  · rfl
  · rfl

/-- Two residues that differ have a difference that is not zero in the field. -/
theorem sub_residue_ne_zero {n x y : Nat} (hx : x < n) (hy : y < n) (h : x ≠ y) :
    (((y : Int) - x : Int) : ZMod n) ≠ 0 := by
  push_cast
  rw [sub_ne_zero, Ne, residue_eq_iff hy hx]
  exact h.symm

/-- The chord case of R156. -/
theorem addAffine_chord_eq (hc : IsPrimeCurve w c) (hp : p.r.toNat < c.field.base)
    (hq : q.r.toNat < c.field.base) (hr : p.r.toNat ≠ q.r.toNat) :
    ∃ m r3 s3 : Nat, addAffine c p q = .ok (pointAffine (BitVec.ofNat w r3) (BitVec.ofNat w s3)) ∧
      (m * (q.r.toNat - p.r.toNat) : ZMod c.field.base) = q.s.toNat - p.s.toNat ∧
      IsLineSum c p q m r3 s3 := by
  obtain ⟨m, r3, s3, hsum, hslope, hline⟩ :=
    lineSum_zmod hc p q ((q.s.toNat : Int) - p.s.toNat) (sub_residue_ne_zero hp hq hr)
  push_cast at hslope
  exact ⟨m, r3, s3, (addAffine_of_r_ne hr).trans hsum, hslope, hline⟩

/-- The tangent case of R156. -/
theorem addAffine_tangent_eq (hc : IsPrimeCurve w c) (hp : p.s.toNat < c.field.base)
    (hr : p.r.toNat = q.r.toNat) (hs : p.s.toNat = q.s.toNat)
    (hopp : (p.s.toNat + q.s.toNat) % c.field.base ≠ 0) :
    ∃ m r3 s3 : Nat, addAffine c p q = .ok (pointAffine (BitVec.ofNat w r3) (BitVec.ofNat w s3)) ∧
      (m * (2 * p.s.toNat) : ZMod c.field.base) = 3 * (p.r.toNat * p.r.toNat) + c.a ∧
      IsLineSum c p q m r3 s3 := by
  have hden : ((2 * (p.s.toNat : Int) : Int) : ZMod c.field.base) ≠ 0 := by
    rw [← hs, ← two_mul, Ne, ← Nat.dvd_iff_mod_eq_zero, ← ZMod.natCast_eq_zero_iff] at hopp
    exact_mod_cast hopp
  obtain ⟨m, r3, s3, hsum, hslope, hline⟩ :=
    lineSum_zmod hc p q (3 * ((p.r.toNat : Int) * p.r.toNat) + c.a) hden
  push_cast at hslope
  refine ⟨m, r3, s3, ?_, hslope, hline⟩
  rw [addAffine_of_r_eq hc.prime hr hp, if_neg hopp, if_pos hs, hsum]

/-- Opposite points add to infinity, whatever curve they are on. -/
theorem addAffine_opposite_eq (hprime : c.field.prime = true) (hp : p.s.toNat < c.field.base)
    (hr : p.r.toNat = q.r.toNat) (hopp : (p.s.toNat + q.s.toNat) % c.field.base = 0) :
    addAffine c p q = .ok pointInf := by
  rw [addAffine_of_r_eq hprime hr hp, if_pos hopp]

/-- Two points that are on no common curve reach the fall-through of R156. -/
theorem addAffine_fallThrough (hprime : c.field.prime = true) (hp : p.s.toNat < c.field.base)
    (hr : p.r.toNat = q.r.toNat) (hs : p.s.toNat ≠ q.s.toNat)
    (hopp : (p.s.toNat + q.s.toNat) % c.field.base ≠ 0) :
    addAffine c p q = .error (.fatal .addCaseFallThrough) := by
  rw [addAffine_of_r_eq hprime hr hp, if_neg hopp, if_neg hs, fatal_eq]

/-! ### The command (46_curve R157) -/

/-- `ECADD` of valid registers whose addition falls through goes fatal with cause 2. -/
theorem exec_ecadd_of_fallThrough {s : State} {a b c : RegIdx} (hcv : s.cv = true)
    (hb : s.p[b].tag = .valid) (hc : s.p[c].tag = .valid)
    (hadd : pAdd s.curve s.p[b] s.p[c] = .error (.fatal .addCaseFallThrough)) :
    exec (.ecadd a b c) s = .next (afterFatal s 2) := by
  change execEcadd a b c s = _
  rw [execEcadd, requireCurve_bind hcv, sourceP_bind hb, sourceP_bind hc, hadd]
  rfl

/-- The slope and the third point as congruences, as `EcaddFollowsTheCases` has them. -/
theorem IsLineSum.congruences {m r3 s3 : Nat} (h : IsLineSum c p q m r3 s3) :
    ((r3 : Int) - ((m : Int) ^ 2 - p.r.toNat - q.r.toNat)) % c.field.base = 0 ∧
    ((s3 : Int) + ((m : Int) ^ 3 - 2 * m * p.r.toNat - m * q.r.toNat + p.s.toNat)) % c.field.base = 0 := by
  rw [emod_eq_zero_iff_zmod, emod_eq_zero_iff_zmod]
  push_cast
  rw [h.rEq, h.sEq]
  constructor <;> ring

end Sys2Proof.Machine

section
open Sys2Proof Sys2Proof.Machine

/-- Settles O52: the cases with infinity, then for two affine points the chord or the tangent, the opposite
points, and the fall-through. -/
theorem ecaddFollowsTheCases : Obligations.EcaddFollowsTheCases := by
  intro s a b c p r1 s1 r2 s2 hcv hfp hp hprime hb hc hr1 hs1 hr2 hs2 hr1p hs1p hr2p hs2p
  subst hp hr1 hs1 hr2 hs2
  have hcurve : IsPrimeCurve Config.W s.curve := ⟨hfp, hprime, s.fbase.isLt⟩
  have hexec {q : PointReg} := exec_ecadd_of_pAdd (a := a) (q := q) hcv hb hc
  refine ⟨fun hi hj => hexec (pAdd_inf_inf hi hj), fun hi hj => hexec (pAdd_inf_affine hi hj),
    fun hi hj => hexec (pAdd_affine_inf hi hj), fun hi hj => ?_⟩
  have hadd : pAdd s.curve s.p[b] s.p[c] = _ := pAdd_affine hi hj
  refine ⟨?_, fun hr hopp => ?_, fun hr hne hopp => ?_⟩
  · rintro (hr | ⟨hr, hs, hopp⟩)
    · obtain ⟨m, r3, s3, hsum, hslope, hline⟩ := addAffine_chord_eq hcurve hr1p hr2p hr
      obtain ⟨hcr, hcs⟩ := hline.congruences
      refine ⟨m, r3, s3, hline.mLt, hline.rLt, hline.sLt, fun _ => ?_, fun he => absurd he hr, hcr, hcs,
        hexec (hadd.trans hsum)⟩
      rw [emod_eq_zero_iff_zmod]
      push_cast
      exact sub_eq_zero.mpr hslope
    · obtain ⟨m, r3, s3, hsum, hslope, hline⟩ := addAffine_tangent_eq hcurve hs1p hr hs hopp
      obtain ⟨hcr, hcs⟩ := hline.congruences
      refine ⟨m, r3, s3, hline.mLt, hline.rLt, hline.sLt, fun hne => absurd hr hne, fun _ => ?_, hcr, hcs,
        hexec (hadd.trans hsum)⟩
      rw [emod_eq_zero_iff_zmod]
      push_cast
      exact sub_eq_zero.mpr (hslope.trans (by rw [pow_two]; rfl))
  · exact hexec (hadd.trans (addAffine_opposite_eq hcurve.prime hs1p hr hopp))
  · exact exec_ecadd_of_fallThrough hcv hb hc
      (hadd.trans (addAffine_fallThrough hcurve.prime hs1p hr hne hopp))

end
end

section
/-!
PROOFS of the curve family, third part: the addition law as the addition of the group of points (46_curve
R156), and double-and-add as the multiple (R160, R161).
-/
namespace Sys2Proof.Machine

open WeierstrassCurve.Affine

/-! ### Point registers and points -/

section
variable {w : Nat} {c : CurveCfg} {p q : PointReg w}

/-- The curve `y^2 = x^3 + a*x + b` of a curve configuration. -/
def CurveCfg.weierstrass (c : CurveCfg) : WeierstrassCurve.Affine (ZMod c.field.base) :=
  ⟨0, 0, 0, (c.a : ZMod c.field.base), (c.b : ZMod c.field.base)⟩

/-- The curve of a state is that of its configuration. -/
theorem curveOf_eq_weierstrass (s : State w) : curveOf s = s.curve.weierstrass := rfl

theorem weierstrass_equation_iff (x y : ZMod c.field.base) :
    c.weierstrass.Equation x y ↔ y ^ 2 = x ^ 3 + c.a * x + c.b := by
  rw [equation_iff]
  simp [CurveCfg.weierstrass]

/-- The negative of a point has the negative second coordinate. -/
theorem weierstrass_negY (x y : ZMod c.field.base) : c.weierstrass.negY x y = -y := by
  simp [negY, CurveCfg.weierstrass]

/-- Over a prime field but that of 2 elements, a discriminant `4*a^3 + 27*b^2` that is not zero makes the
curve regular: the discriminant of Weierstrass is that one times -16. -/
theorem weierstrass_Δ_ne_zero (hp : c.field.base.Prime) (hodd : c.field.base ≠ 2)
    (hreg : (4 * c.a ^ 3 + 27 * c.b ^ 2) % c.field.base ≠ 0) :
    WeierstrassCurve.Δ c.weierstrass ≠ 0 := by
  have : Fact c.field.base.Prime := ⟨hp⟩
  have hshort : WeierstrassCurve.IsShortNF c.weierstrass := ⟨rfl, rfl, rfl⟩
  have hsixteen : ((16 : Nat) : ZMod c.field.base) ≠ 0 := by
    rw [Ne, ZMod.natCast_eq_zero_iff, show 16 = 2 ^ 4 from rfl]
    exact fun h => hodd ((Nat.prime_dvd_prime_iff_eq hp Nat.prime_two).mp (hp.dvd_of_dvd_pow h))
  rw [Ne, ← Nat.dvd_iff_mod_eq_zero, ← ZMod.natCast_eq_zero_iff] at hreg
  rw [WeierstrassCurve.Δ_of_isShortNF]
  push_cast at hsixteen hreg
  exact mul_ne_zero (neg_ne_zero.mpr hsixteen) hreg

theorem represents_zero {n : Nat} {e : WeierstrassCurve.Affine (ZMod n)} :
    Represents (pointInf : PointReg w) (0 : e.Point) := rfl

/-- Residues that fit make a register that stands for the point with these coordinates. -/
theorem represents_affine {n r s : Nat} {e : WeierstrassCurve.Affine (ZMod n)} (hn : n < 2 ^ w)
    (hr : r < n) (hs : s < n) {x y : ZMod n} (hx : (r : ZMod n) = x) (hy : (s : ZMod n) = y)
    (h : e.Nonsingular x y) :
    Represents (pointAffine (BitVec.ofNat w r) (BitVec.ofNat w s)) (Point.some x y h) := by
  have hrw : (BitVec.ofNat w r).toNat = r := toNat_ofNat_residue hn hr
  have hsw : (BitVec.ofNat w s).toNat = s := toNat_ofNat_residue hn hs
  exact ⟨rfl, rfl, hrw.symm ▸ hr, hsw.symm ▸ hs, hrw.symm ▸ hx, hsw.symm ▸ hy⟩

/-- A register that stands for a point is `VALID`. -/
theorem Represents.valid {n : Nat} {e : WeierstrassCurve.Affine (ZMod n)} {P : e.Point}
    (h : Represents q P) : q.tag = .valid := by
  cases P with
  | zero => exact congrArg PointReg.tag h
  | some x y hxy => exact h.1

section
variable {n : Nat} {e : WeierstrassCurve.Affine (ZMod n)} {x y : ZMod n} {hxy : e.Nonsingular x y}

/-- A register that stands for an affine point is not infinity. -/
theorem Represents.finite (h : Represents q (Point.some x y hxy)) : q.inf = false := h.2.1

/-- The coordinates alone stand for the affine point. -/
theorem Represents.copy (h : Represents q (Point.some x y hxy)) :
    Represents (pointAffine q.r q.s) (Point.some x y hxy) :=
  ⟨rfl, rfl, h.2.2⟩

end

/-- Infinity is stored in one form (10_state R25). -/
theorem IsCurvePoint.eq_pointInf (h : IsCurvePoint c q) (hq : q.inf = true) : q = pointInf := by
  obtain ⟨hr, hs⟩ := h.infinity hq
  obtain ⟨tag, inf, r, s⟩ := q
  obtain rfl : tag = .valid := h.valid
  obtain rfl : inf = true := hq
  obtain rfl : r = 0 := hr
  obtain rfl : s = 0 := hs
  rfl

/-- Over a regular curve a point of the curve, as R25 has it, stands for one of the group. -/
theorem IsCurvePoint.exists_represents (h : IsCurvePoint c q)
    (hreg : WeierstrassCurve.Δ c.weierstrass ≠ 0) :
    ∃ P : c.weierstrass.Point, Represents q P := by
  cases hq : q.inf with
  | true => exact ⟨0, h.eq_pointInf hq ▸ represents_zero⟩
  | false =>
    obtain ⟨hr, hs, -⟩ := h.affine hq
    have hpoint := (equation_iff_nonsingular_of_Δ_ne_zero hreg).mp
      ((weierstrass_equation_iff _ _).mpr (h.equation hq))
    exact ⟨.some _ _ hpoint, h.valid, hq, hr, hs, rfl, rfl⟩

/-! ### Addition (46_curve R156) -/

/-- The reflected third point of the line with the group's slope stands for the sum. -/
theorem IsLineSum.represents [Fact c.field.base.Prime] (hfits : c.field.base < 2 ^ w) {m r3 s3 : Nat}
    (h : IsLineSum c p q m r3 s3)
    {hp : c.weierstrass.Nonsingular (p.r.toNat : ZMod c.field.base) p.s.toNat}
    {hq : c.weierstrass.Nonsingular (q.r.toNat : ZMod c.field.base) q.s.toNat}
    (hopp : ¬((p.r.toNat : ZMod c.field.base) = q.r.toNat ∧
      (p.s.toNat : ZMod c.field.base) = c.weierstrass.negY q.r.toNat q.s.toNat))
    (hslope : c.weierstrass.slope p.r.toNat q.r.toNat p.s.toNat q.s.toNat = m) :
    Represents (pointAffine (BitVec.ofNat w r3) (BitVec.ofNat w s3))
      (Point.some _ _ hp + Point.some _ _ hq) := by
  rw [Point.add_some hopp]
  refine represents_affine hfits h.rLt h.sLt ?_ ?_ _
  · rw [h.rEq, hslope]
    simp [addX, CurveCfg.weierstrass, pow_two]
  · rw [h.sEq, hslope, addY, weierstrass_negY]
    simp only [negAddY, addX, CurveCfg.weierstrass]
    ring

/-- The addition law of two affine points is the addition of the group. -/
theorem addAffine_represents (hc : IsPrimeCurve w c) [Fact c.field.base.Prime]
    {x1 y1 x2 y2 : ZMod c.field.base} {h1 : c.weierstrass.Nonsingular x1 y1}
    {h2 : c.weierstrass.Nonsingular x2 y2} (hp : Represents p (Point.some x1 y1 h1))
    (hq : Represents q (Point.some x2 y2 h2)) :
    ∃ t, addAffine c p q = .ok t ∧ Represents t (Point.some x1 y1 h1 + Point.some x2 y2 h2) := by
  obtain ⟨-, -, hr1, hs1, rfl, rfl⟩ := hp
  obtain ⟨-, -, hr2, hs2, rfl, rfl⟩ := hq
  by_cases hr : p.r.toNat = q.r.toNat
  · have hx : (p.r.toNat : ZMod c.field.base) = q.r.toNat := congrArg _ hr
    have hopp_iff : (p.s.toNat + q.s.toNat) % c.field.base = 0 ↔
        (p.s.toNat : ZMod c.field.base) = c.weierstrass.negY q.r.toNat q.s.toNat := by
      rw [weierstrass_negY, add_mod_eq_zero_iff]
    by_cases hopp : (p.s.toNat + q.s.toNat) % c.field.base = 0
    · refine ⟨_, addAffine_opposite_eq hc.prime hs1 hr hopp, ?_⟩
      rw [Point.add_of_Y_eq hx (hopp_iff.mp hopp)]
      exact represents_zero
    · have hy := (Y_eq_of_X_eq h1.1 h2.1 hx).resolve_right (hopp_iff.not.mp hopp)
      have hs := (residue_eq_iff hs1 hs2).mp hy
      obtain ⟨m, r3, s3, hsum, hslope, hline⟩ := addAffine_tangent_eq hc hs1 hr hs hopp
      refine ⟨_, hsum, hline.represents hc.baseLt (fun h => hopp (hopp_iff.mpr h.2)) ?_⟩
      have hden : (p.s.toNat : ZMod c.field.base) - c.weierstrass.negY p.r.toNat p.s.toNat ≠ 0 := by
        rw [hx, sub_ne_zero]
        nth_rw 2 [hy]
        exact hopp_iff.not.mp hopp
      rw [slope_of_Y_ne hx (hopp_iff.not.mp hopp), div_eq_iff hden, weierstrass_negY]
      simp only [CurveCfg.weierstrass]
      linear_combination -hslope
  · obtain ⟨m, r3, s3, hsum, hslope, hline⟩ := addAffine_chord_eq hc hr1 hr2 hr
    have hx : (p.r.toNat : ZMod c.field.base) ≠ q.r.toNat := (residue_eq_iff hr1 hr2).not.mpr hr
    refine ⟨_, hsum, hline.represents hc.baseLt (fun h => hx h.1) ?_⟩
    rw [slope_of_X_ne hx, div_eq_iff (sub_ne_zero.mpr hx)]
    linear_combination hslope

/-- The addition law is the addition of the group. -/
theorem pAdd_represents (hc : IsPrimeCurve w c) [Fact c.field.base.Prime] {P Q : c.weierstrass.Point}
    (hp : Represents p P) (hq : Represents q Q) :
    ∃ t, pAdd c p q = .ok t ∧ Represents t (P + Q) := by
  cases P with
  | zero =>
    obtain rfl : p = pointInf := hp
    rw [← Point.zero_def, zero_add]
    cases Q with
    | zero =>
      obtain rfl : q = pointInf := hq
      exact ⟨pointInf, pAdd_inf_inf rfl rfl, represents_zero⟩
    | some x y h => exact ⟨_, pAdd_inf_affine rfl hq.finite, hq.copy⟩
  | some x y h =>
    cases Q with
    | zero =>
      obtain rfl : q = pointInf := hq
      rw [← Point.zero_def, add_zero]
      exact ⟨_, pAdd_affine_inf hp.finite rfl, hp.copy⟩
    | some x' y' h' =>
      rw [pAdd_affine hp.finite hq.finite]
      exact addAffine_represents hc hp hq

/-! ### Double-and-add (46_curve R160) -/

/-- One round of the bit loop of R160: a doubling, and the addition of the point for a bit that is set. -/
def mulRound (c : CurveCfg) (p : PointReg w) (bit : Bool) (acc : PointReg w) : Alg (PointReg w) := do
  let dbl ← pAdd c acc acc
  if bit then pAdd c dbl p else .ok dbl

theorem mulRound_false (c : CurveCfg) (p acc : PointReg w) : mulRound c p false acc = pAdd c acc acc :=
  bind_pure _

theorem mulRound_true (c : CurveCfg) (p acc : PointReg w) :
    mulRound c p true acc = pAdd c acc acc >>= fun dbl => pAdd c dbl p := rfl

/-- The bit loop takes the highest of its bits first. -/
theorem pMulLoop_first (c : CurveCfg) (p : PointReg w) (n k : Nat) (acc : PointReg w) :
    pMulLoop c p n (k + 1) acc = mulRound c p (n.testBit k) acc >>= pMulLoop c p n k := by
  rw [pMulLoop]
  cases n.testBit k with
  | false => rw [mulRound_false]; rfl
  | true => rw [mulRound_true, bind_assoc]; rfl

/-- The bit loop takes bit 0 last. -/
theorem pMulLoop_last (c : CurveCfg) (p : PointReg w) (n k : Nat) (acc : PointReg w) :
    pMulLoop c p n (k + 1) acc = pMulLoop c p (n / 2) k acc >>= mulRound c p (n.testBit 0) := by
  induction k generalizing acc with
  | zero =>
    rw [pMulLoop_first]
    exact bind_pure _
  | succ k ih =>
    rw [pMulLoop_first, pMulLoop_first, funext ih, bind_assoc, Nat.testBit_succ]

/-- The scalar 1 leaves the point. -/
theorem pMul_one (c : CurveCfg) (p : PointReg w) : pMul c p 1 = .ok p := rfl

/-- One more bit of the scalar is one more round. -/
theorem pMul_bit (c : CurveCfg) (p : PointReg w) {k : Nat} (hk : k ≠ 0) (b : Bool) :
    pMul c p (Nat.bit b k) = pMul c p k >>= mulRound c p b := by
  have hlen : bitlen (Nat.bit b k) - 1 = bitlen k - 1 + 1 := by
    have hpos := bitlen_pos.mpr hk
    rw [bitlen_eq_size, Nat.size_bit (Nat.bit_ne_zero b hk), ← bitlen_eq_size]
    omega
  rw [pMul, hlen, pMulLoop_last, Nat.bit_div_two, Nat.testBit_bit_zero, pMul]

/-- The multiple by `2k` is the doubling of the multiple by `k`. -/
theorem pMul_two_mul (c : CurveCfg) (p : PointReg w) {k : Nat} (hk : k ≠ 0) :
    pMul c p (2 * k) = pMul c p k >>= fun q => pAdd c q q := by
  rw [← Nat.bit_false_apply, pMul_bit c p hk, funext (mulRound_false c p)]

/-- The multiple by `2k + 1` is the sum of that by `2k` and the point. -/
theorem pMul_two_mul_add_one (c : CurveCfg) (p : PointReg w) {k : Nat} (hk : k ≠ 0) :
    pMul c p (2 * k + 1) = pMul c p (2 * k) >>= fun dbl => pAdd c dbl p := by
  rw [pMul_two_mul c p hk, ← Nat.bit_true_apply, pMul_bit c p hk, funext (mulRound_true c p), bind_assoc]

/-- A round doubles the multiple, and adds the point for a bit that is set. -/
theorem mulRound_represents (hc : IsPrimeCurve w c) [Fact c.field.base.Prime] {P : c.weierstrass.Point}
    {k : Nat} (hp : Represents p P) (hq : Represents q (k • P)) (b : Bool) :
    ∃ t, mulRound c p b q = .ok t ∧ Represents t (Nat.bit b k • P) := by
  obtain ⟨dbl, hdbl, hdblP⟩ := pAdd_represents hc hq hq
  rw [← two_nsmul, ← mul_nsmul'] at hdblP
  cases b with
  | false => exact ⟨dbl, by rw [mulRound_false, hdbl], hdblP⟩
  | true =>
    obtain ⟨t, ht, htP⟩ := pAdd_represents hc hdblP hp
    refine ⟨t, by rw [mulRound_true, hdbl, alg_ok_bind, ht], ?_⟩
    rwa [← succ_nsmul] at htP

/-- Double-and-add is the multiple in the group. -/
theorem pMul_represents (hc : IsPrimeCurve w c) [Fact c.field.base.Prime] {P : c.weierstrass.Point}
    (hp : Represents p P) {n : Nat} (hn : n ≠ 0) :
    ∃ t, pMul c p n = .ok t ∧ Represents t (n • P) := by
  induction n using Nat.binaryRec with
  | zero => exact absurd rfl hn
  | bit b k ih =>
    by_cases hk : k = 0
    · subst hk
      obtain rfl : b = true := by cases b with
        | false => exact absurd rfl hn
        | true => rfl
      exact ⟨p, pMul_one c p, by simpa [Nat.bit] using hp⟩
    · obtain ⟨q, hq, hqP⟩ := ih hk
      rw [pMul_bit c p hk, hq, alg_ok_bind]
      exact mulRound_represents hc hp hqP b

end

/-! ### The commands (46_curve R157, R159, R161) -/

section
variable {w : Nat} {s : State w} {a b : RegIdx} {q : PointReg w}

theorem afterP_point_self : (afterP s a q).p[a] = q := by
  rw [getElem_set_reg, if_pos rfl]

theorem afterP_point_ne (h : a ≠ b) : (afterP s a q).p[b] = s.p[b] := by
  rw [getElem_set_reg, if_neg h]

/-- Of two writes of one point register the second remains. -/
theorem afterP_afterP (q' : PointReg w) : afterP (afterP s a q) a q' = afterP s a q' := by
  rw [afterP, Vector.set_set]

end

/-- `ECMUL` of a point of the curve, by a scalar of at least 1, writes what double-and-add answers. -/
theorem exec_ecmul_of_isCurvePoint {s : State} {a b c : RegIdx} {n : Nat} {q : PointReg}
    (hcurve : IsPrimeCurve Config.W s.curve) (hcv : s.cv = true) (hb : IsCurvePoint s.curve s.p[b])
    (hc : s.readX c = n) (hn : n ≠ 0) (hq : pMul s.curve s.p[b] n = .ok q) :
    exec (.ecmul a b c) s = .next (afterP s a q) := by
  refine exec_ecmul_of_pMul hcv hb.valid (checkOnCurve_of_isCurvePoint hcurve hb) (by omega) ?_
  rw [hc, Int.toNat_natCast, hq]

/-- `ECADD` to the register that was written last overwrites it with the sum. -/
theorem exec_ecadd_afterP {s : State} {a b : RegIdx} {q p sum : PointReg} (hcv : s.cv = true)
    (hq : q.tag = .valid) (hb : (afterP s a q).p[b] = p) (hp : p.tag = .valid)
    (hsum : pAdd s.curve q p = .ok sum) :
    exec (.ecadd a a b) (afterP s a q) = .next (afterP s a sum) := by
  subst hb
  refine (exec_ecadd_of_pAdd (s := afterP s a q) hcv ?_ hp ?_).trans (congrArg _ (afterP_afterP sum))
  · rw [afterP_point_self, hq]
  · rw [afterP_point_self]
    exact hsum

/-- A point of the curve and its negative add to infinity. -/
theorem pAdd_pNeg {w : Nat} {c : CurveCfg} {p : PointReg w} (hc : IsPrimeCurve w c)
    (hp : IsCurvePoint c p) :
    ∃ n, pNeg c p = .ok n ∧ n.tag = .valid ∧ pAdd c p n = .ok pointInf := by
  cases hinf : p.inf with
  | true => exact ⟨pointInf, by rw [pNeg, hinf]; rfl, rfl, pAdd_inf_inf hinf rfl⟩
  | false =>
    obtain ⟨v, hlt, hsum, hneg⟩ := pNeg_affine hc.prime hc.basePrime.pos hinf
    obtain ⟨-, hs, -⟩ := hp.affine hinf
    refine ⟨_, hneg, rfl, (pAdd_affine hinf rfl).trans (addAffine_opposite_eq hc.prime hs rfl ?_)⟩
    change (p.s.toNat + (BitVec.ofNat w v).toNat) % c.field.base = 0
    rw [toNat_ofNat_residue hc.baseLt hlt, Nat.add_comm, hsum]

end Sys2Proof.Machine

section
open Sys2Proof Sys2Proof.Machine

/-- Settles O54: a regular curve has a group point for each of its points, and the addition law is the
group's, case by case. -/
theorem ecaddIsTheGroupLaw : Obligations.EcaddIsTheGroupLaw := by
  intro s hfact a b c hinv hcv hodd hb hc
  have hcurve := hinv.isPrimeCurve hcv
  constructor
  · obtain ⟨-, -, hreg⟩ := hinv.curveIsRegular hcv
    have hodd' : s.fbase.toNat ≠ 2 := fun h => hodd (BitVec.eq_of_toNat_eq h)
    exact (hinv.isCurvePoint hb).exists_represents (weierstrass_Δ_ne_zero hcurve.basePrime hodd' hreg)
  · intro P Q hP hQ
    have : Fact s.curve.field.base.Prime := hfact
    obtain ⟨q, hq, hsum⟩ := pAdd_represents hcurve hP hQ
    exact ⟨q, exec_ecadd_of_pAdd hcv hb hc hq, hsum⟩

/-- Settles O55: one more bit of the scalar is one more round of the bit loop, and a round doubles and adds
in the group. -/
theorem ecmulIsTheScalarMultiple : Obligations.EcmulIsTheScalarMultiple := by
  constructor
  · intro s a b c d hinv hcv hb hn
    have hcurve := hinv.isPrimeCurve hcv
    have hpoint := hinv.isCurvePoint hb
    have hexec {d : RegIdx} {n : Nat} {q : PointReg} :=
      exec_ecmul_of_isCurvePoint (a := a) (c := d) (n := n) (q := q) hcurve hcv hpoint
    obtain ⟨n, hc⟩ := Int.eq_ofNat_of_zero_le (show 0 ≤ s.readX c by omega)
    have hn0 : n ≠ 0 := by omega
    obtain ⟨q, hq, hqc⟩ := pMul_onCurve hcurve hpoint n
    obtain ⟨dbl, hdbl, hdblc⟩ := pAdd_onCurve hcurve hqc hqc
    obtain ⟨sum, hsum, -⟩ := pAdd_onCurve hcurve hdblc hpoint
    have heven : pMul s.curve s.p[b] (2 * n) = .ok dbl := by
      rw [pMul_two_mul _ _ hn0, hq, alg_ok_bind, hdbl]
    have hodd : pMul s.curve s.p[b] (2 * n + 1) = .ok sum := by
      rw [pMul_two_mul_add_one _ _ hn0, heven, alg_ok_bind, hsum]
    refine ⟨q, hexec hc hn0 hq, fun hone => ?_, afterP s a dbl,
      exec_ecadd_afterP hcv hqc.valid afterP_point_self hqc.valid hdbl, fun hd => ?_, fun hd hab => ?_⟩
    · obtain rfl : n = 1 := by omega
      exact Except.ok.inj (hq.symm.trans (pMul_one _ _))
    · exact hexec (by omega) (by omega) heven
    · rw [hexec (by omega) (by omega) hodd,
        exec_ecadd_afterP hcv hdblc.valid (afterP_point_ne hab) hb hsum]
  · intro s hfact a b c hinv hcv _ hn P hP
    have : Fact s.curve.field.base.Prime := hfact
    have hcurve := hinv.isPrimeCurve hcv
    obtain ⟨n, hc⟩ := Int.eq_ofNat_of_zero_le (show 0 ≤ s.readX c by omega)
    have hn0 : n ≠ 0 := by omega
    obtain ⟨q, hq, hmul⟩ := pMul_represents hcurve hP hn0
    refine ⟨q, exec_ecmul_of_isCurvePoint hcurve hcv (hinv.isCurvePoint hP.valid) hc hn0 hq, ?_⟩
    rw [hc, Int.toNat_natCast]
    exact hmul

/-- Settles O57: the point's second coordinate and its negative add to a multiple of the prime. -/
theorem pointPlusNegativeIsInfinity : Obligations.PointPlusNegativeIsInfinity := by
  intro s b d e hinv hcv hb hdb
  obtain ⟨n, hn, hvalid, hsum⟩ := pAdd_pNeg (hinv.isPrimeCurve hcv) (hinv.isCurvePoint hb)
  have hother : (afterP s d n).p[b] = s.p[b] := afterP_point_ne hdb
  refine ⟨_, exec_ecneg_of_pNeg hcv hb hn, exec_ecadd_of_pAdd hcv ?_ ?_ ?_⟩
  · rw [hother, hb]
  · rw [afterP_point_self, hvalid]
  · rw [hother, afterP_point_self]
    exact hsum

/-- Settles O58: the rounds of the scalars 2 and 4 are one and two doublings. -/
theorem scalarTwoAndFour : Obligations.ScalarTwoAndFour := by
  intro s a b c d e hinv hcv hb
  have hcurve := hinv.isPrimeCurve hcv
  have hpoint := hinv.isCurvePoint hb
  obtain ⟨dbl, hdbl, hdblc⟩ := pAdd_onCurve hcurve hpoint hpoint
  obtain ⟨quad, hquad, -⟩ := pAdd_onCurve hcurve hdblc hdblc
  have htwice (p : PointReg) : pMul s.curve p 2 = pAdd s.curve p p := pMul_two_mul _ p one_ne_zero
  have htwo : pMul s.curve s.p[b] 2 = .ok dbl := (htwice _).trans hdbl
  have hfour : pMul s.curve s.p[b] 4 = .ok quad := by
    rw [pMul_two_mul _ _ two_ne_zero, htwo, alg_ok_bind, hquad]
  refine ⟨fun hd => ?_, fun hc hd => ⟨_, afterP (afterP s e dbl) a quad, _,
    exec_ecmul_of_isCurvePoint hcurve hcv hpoint hd two_ne_zero htwo, ?_,
    exec_ecmul_of_isCurvePoint hcurve hcv hpoint hc four_ne_zero hfour, ?_⟩⟩
  · rw [exec_ecmul_of_isCurvePoint hcurve hcv hpoint hd two_ne_zero htwo,
      exec_ecadd_of_pAdd hcv hb hb hdbl]
  · refine exec_ecmul_of_isCurvePoint hcurve hcv ?_ hd two_ne_zero ?_
    · rw [afterP_point_self]
      exact hdblc
    · rw [afterP_point_self]
      exact (htwice dbl).trans hquad
  · rw [afterP_point_self, afterP_point_self]

end
end

section
/-!
PROOFS of the exceptions and reset families, first part: the fatal state (60_exceptions R189), the three
ends of a command (R180, R181, R188), and that every step answers and `BUSY` ends (70_reset_and_hazards
R206).
-/
namespace Sys2Proof.Machine

section
variable {w : Nat}

/-! ### The fatal state -/

/-- 60_exceptions R189: in the fatal state a host operation but the reset changes only the answer; issues
and writes are the ones that are not accepted. -/
theorem hostStep_of_fatal {op : HostOp w} {s : State w} (hs : s.phase = .fatal) (hop : op ≠ .reset) :
    ∃ r, hostStep op s = { s with reply := r } ∧
      (r = .notAccepted ↔
        (∃ v, op = .issue v) ∨ (∃ i n m, op = .writeX i n m) ∨ (∃ v, op = .writeCTRL v)) := by
  cases op with
  | issue | writeX | writeCTRL =>
    exact ⟨_, hostStep_not_accepted (by rw [hs]; rfl), by simp⟩
  | readX | readP | readCSR =>
    exact ⟨_, hostStep_accepted (by rw [hs]; rfl), by simp⟩
  | reset => exact absurd rfl hop

/-! ### The ends of a command -/

/-- The writes of a command leave `FCAUSE`, which only a fatal end sets. -/
theorem Writes.fcause_eq {i : Instr} {s t : State w} (h : Writes i s t) : t.fcause = s.fcause := by
  induction h with
  | nothing => rfl
  | dataReg _ _ ih | pointReg _ _ _ _ ih | flag _ _ ih | field _ _ _ ih | curve _ _ _ _ _ ih
  | cache _ _ _ _ _ ih => exact ih

/-- A command always answers a next state. -/
theorem exec_answers (i : Instr) (s : State) : ∃ t, exec i s = .next t := by
  obtain ⟨r, hr, -⟩ := exec_gives i s
  exact ⟨_, hr⟩

/-- No command ends in `BUSY` (60_exceptions R180). -/
theorem exec_phase_ne_busy {i : Instr} {s t : State} (h : exec i s = .next t) : t.phase ≠ .busy := by
  rcases exec_cases h with ⟨u, -, rfl⟩ | ⟨e, rfl⟩ | ⟨c, rfl, -⟩ <;> simp

/-- The completion of the command in flight answers a state outside `BUSY`, whatever word is latched. -/
theorem runCommand_leaves_busy (s : State) : ∃ t, runCommand s = .next t ∧ t.phase ≠ .busy := by
  cases hdecode : decode s.cmd with
  | ok i =>
    obtain ⟨t, ht⟩ := exec_answers i s
    exact ⟨t, (runCommand_of_decode hdecode).trans ht, exec_phase_ne_busy ht⟩
  | error e => exact ⟨_, runCommand_of_illegal hdecode, by simp⟩

/-! ### Steps and runs -/

/-- Every state has a next state. -/
theorem step_answers (s : State) : ∃ t, step s = .next t := by
  rcases step_cases s with ⟨q, rest, -, -, hstep⟩ | ⟨-, -, hstep⟩ | ⟨-, -, hstep⟩
  · exact ⟨_, hstep⟩
  · obtain ⟨t, ht, -⟩ := runCommand_leaves_busy s
    exact ⟨t, hstep.trans ht⟩
  · exact ⟨_, hstep⟩

/-- In `BUSY` a host operation either is the reset, which leaves it, or keeps the command in flight and the
operations still to come. -/
theorem hostStep_of_busy (op : HostOp w) {s : State w} (hs : s.phase = .busy) :
    (hostStep op s).phase ≠ .busy ∨ (hostStep op s).phase = .busy ∧ (hostStep op s).port = s.port := by
  cases hop : op.acceptedIn s.phase with
  | false =>
    rw [hostStep_not_accepted hop]
    exact .inr ⟨hs, rfl⟩
  | true =>
    rw [hostStep_accepted hop]
    rw [hs, acceptedIn_busy_iff] at hop
    rcases hop with rfl | rfl
    · exact .inr ⟨hs, rfl⟩
    · exact .inl (by simp [hostEffect, State.resetAt])

/-- The first of `k + 1` steps. -/
theorem run_succ {s t : State} (h : step s = .next t) (k : Nat) :
    Host.Core.run core (k + 1) s = Host.Core.run core k t := by
  have hcore : core.step s = .next t := h
  simp only [Host.Core.run, hcore]

/-- In `BUSY` a step leaves `BUSY` or takes one host operation off the port. -/
theorem step_of_busy {s : State} (hs : s.phase = .busy) : ∃ t, step s = .next t ∧
    (t.phase ≠ .busy ∨ t.phase = .busy ∧ t.port.length < s.port.length) := by
  rcases step_cases s with ⟨q, rest, hport, -, hstep⟩ | ⟨-, -, hstep⟩ | ⟨-, hidle, -⟩
  · refine ⟨_, hstep, (hostStep_of_busy q.op (s := { s with port := rest }) hs).imp_right ?_⟩
    rintro ⟨hbusy, hrest⟩
    exact ⟨hbusy, by simp [hrest, hport]⟩
  · obtain ⟨t, ht, hleft⟩ := runCommand_leaves_busy s
    exact ⟨t, hstep.trans ht, .inl hleft⟩
  · exact absurd hs hidle

/-- The host operations still to come bound the steps in `BUSY`. -/
theorem busy_ends {s : State} (hs : s.phase = .busy) :
    ∃ k ≤ s.port.length + 1, ∃ t : State, Host.Core.run core k s = .next t ∧ t.phase ≠ .busy := by
  induction hn : s.port.length using Nat.strong_induction_on generalizing s with
  | h n ih =>
    obtain ⟨t, hstep, hleft | ⟨hbusy, hlt⟩⟩ := step_of_busy hs
    · exact ⟨1, by omega, t, run_succ hstep 0, hleft⟩
    · obtain ⟨k, hk, u, hrun, hu⟩ := ih _ (hn ▸ hlt) hbusy rfl
      exact ⟨k + 1, by omega, u, (run_succ hstep k).trans hrun, hu⟩

end
end Sys2Proof.Machine

section
open Sys2Proof Sys2Proof.Machine

/-- Settles O15: the host's turn in the fatal state, and the reset, which every state accepts. -/
theorem fatalStateIsFrozen : Obligations.FatalStateIsFrozen := by
  intro s hs
  refine ⟨fun hport => step_of_no_event hport (by simp [hs]), fun op rest hturn hop => ?_,
    fun rest hturn => ?_⟩
  · obtain ⟨r, hstep, hr⟩ := hostStep_of_fatal (s := { s with port := rest }) hs hop
    exact ⟨r, (step_hostTurn hturn).trans (congrArg _ hstep), hr⟩
  · obtain ⟨c, hc⟩ := hostResetFromEveryState s rest hturn
    exact ⟨c, .done, hc⟩

/-- Settles O20: the writes of a successful command leave `FCAUSE`; codes and causes are not 0. -/
theorem commandEndsInOneOfThreeWays : Obligations.CommandEndsInOneOfThreeWays := by
  intro i s
  obtain ⟨t, ht⟩ := exec_answers i s
  refine ⟨t, ht, ?_⟩
  rcases exec_cases ht with ⟨u, hu, rfl⟩ | ⟨e, rfl⟩ | ⟨c, rfl, -⟩
  · exact .inl ⟨rfl, rfl, hu.fcause_eq⟩
  · exact .inr (.inl ⟨e, rfl, (typedError_code_range e).1⟩)
  · exact .inr (.inr ⟨c, rfl, fatalCause_code_ne c⟩)

/-- Settles O19: a host operation, a command and a step with nothing to do all answer a next state. -/
theorem everyStepAnswersNext : Obligations.EveryStepAnswersNext := step_answers

/-- Settles O18: by induction on the number of host operations still to come. -/
theorem busyAlwaysEnds : Obligations.BusyAlwaysEnds := fun _ hs => busy_ends hs

end
end

section
/-!
PROOFS of the exceptions family, second part: what stops a command. Each pure function stops for few
reasons (`StopsOnly`), and each command's computation is walked once, check by check, for all that R183,
R185, R186 and R187 say of its stops (`StopAllowed`).
-/
namespace Sys2Proof.Machine

/-! ### Computations that stop for known reasons -/

/-- A computation whose every stop satisfies `allowed`. -/
def StopsOnly {α : Type} (allowed : Stop → Prop) (x : Alg α) : Prop := ∀ r, x = .error r → allowed r

section
variable {α β : Type} {allowed : Stop → Prop}

theorem StopsOnly.ok (v : α) : StopsOnly allowed (.ok v : Alg α) := nofun

theorem StopsOnly.error {r : Stop} (h : allowed r) : StopsOnly allowed (.error r : Alg α) :=
  fun _ hr => Except.error.inj hr ▸ h

theorem StopsOnly.bind {x : Alg α} {f : α → Alg β} (hx : StopsOnly allowed x)
    (hf : ∀ v, x = .ok v → StopsOnly allowed (f v)) : StopsOnly allowed (x >>= f) := by
  intro r hr
  rcases bind_eq_error.mp hr with hstop | ⟨v, hv, hstop⟩
  · exact hx r hstop
  · exact hf v hv r hstop

theorem StopsOnly.ite {c : Prop} [Decidable c] {x y : Alg α} (hx : c → StopsOnly allowed x)
    (hy : ¬c → StopsOnly allowed y) : StopsOnly allowed (if c then x else y) := by
  split
  case isTrue h => exact hx h
  case isFalse h => exact hy h

/-- A check: its error where the condition fails, and what comes after it where it holds. -/
theorem StopsOnly.check {ok : Bool} {e : TypedError} {f : Unit → Alg β}
    (hfail : ok = false → allowed (.raised e)) (hf : ok = true → StopsOnly allowed (f ())) :
    StopsOnly allowed (require ok e >>= f) := by
  cases ok with
  | false => exact .error (hfail rfl)
  | true => exact hf rfl

/-- 44_field R128: of the stops of the inverse, a missing inverse is reported as a division by zero. -/
theorem StopsOnly.asDivision {x : Alg Nat} (hx : StopsOnly (fun r => r = .raised .noInverse ∨ allowed r) x)
    (hdiv : allowed (.raised .divisionByZero)) : StopsOnly allowed (asDivision x) := by
  unfold Machine.asDivision
  split
  next => exact .error hdiv
  next e hne => exact .error ((hx e rfl).resolve_left hne)
  next => exact .ok _

end

/-! ### The stops of the pure functions -/

section
variable {f : FieldCfg} {allowed : Stop → Prop}
  (hneg : f.prime = false → allowed (.fatal .negativeNonPrimeReduce))
include hneg

theorem stopsOnly_reduce (n : Int) : StopsOnly allowed (reduce f n) :=
  .ite (fun _ => .ok _) fun hprime => .ite (fun _ => .error (hneg (by simpa using hprime))) fun _ => .ok _

theorem stopsOnly_fAdd (x y : Int) : StopsOnly allowed (fAdd f x y) :=
  .ite (fun _ => stopsOnly_reduce hneg _) fun hprime =>
    .ite (fun _ => .error (hneg (by simpa using hprime))) fun _ => stopsOnly_reduce hneg _

theorem stopsOnly_fNeg (x : Int) : StopsOnly allowed (fNeg f x) :=
  (stopsOnly_reduce hneg x).bind fun _ _ => .ok _

theorem stopsOnly_fInv (x : Int) (hinv : allowed (.raised .noInverse)) :
    StopsOnly allowed (fInv f x) :=
  (stopsOnly_reduce hneg x).bind fun _ _ => .check (fun _ => hinv) fun _ => stopsOnly_reduce hneg _

theorem stopsOnly_fDiv (x y : Int) (hdiv : allowed (.raised .divisionByZero)) :
    StopsOnly allowed (fDiv f x y) :=
  (stopsOnly_fInv (fun h => .inr (hneg h)) y (.inl rfl)).asDivision hdiv |>.bind fun _ _ =>
    stopsOnly_reduce hneg _

theorem stopsOnly_charLoop (fuel acc count : Nat) : StopsOnly allowed (charLoop f fuel acc count) := by
  induction fuel generalizing acc count with
  | zero => exact .ok _
  | succ fuel ih =>
    exact (stopsOnly_fAdd hneg _ _).bind fun _ _ => .ite (fun _ => .ok _) fun _ => ih _ _

theorem stopsOnly_fChar (cached : Option Nat) : StopsOnly allowed (fChar f cached) :=
  .ite (fun _ => .ok _) fun _ => by
    cases cached with
    | none => exact stopsOnly_charLoop hneg _ _ _
    | some v => exact .ok v

theorem stopsOnly_fSqrt (a : Nat) (hroot : allowed (.raised .noRoot)) :
    StopsOnly allowed (fSqrt f a) := by
  refine .check (fun _ => hroot) fun _ => .ite (fun _ => ?_) fun _ => ?_
  · exact (stopsOnly_fNeg hneg _).bind fun _ _ => .ok _
  · dsimp only
    split
    · exact .error hroot
    · exact (stopsOnly_fNeg hneg _).bind fun _ _ => .ok _

end

section
variable {w : Nat} {c : CurveCfg} {allowed : Stop → Prop}
  (hneg : c.field.prime = false → allowed (.fatal .negativeNonPrimeReduce))
include hneg

theorem stopsOnly_onCurve (r s : Nat) : StopsOnly allowed (onCurve c r s) :=
  (stopsOnly_reduce hneg _).bind fun _ _ => (stopsOnly_reduce hneg _).bind fun _ _ => .ok _

theorem stopsOnly_checkOnCurve (p : PointReg w) (hoff : allowed (.raised .pointNotOnCurve)) :
    StopsOnly allowed (checkOnCurve c p) :=
  .ite (fun _ => .ok ()) fun _ => (stopsOnly_onCurve hneg _ _).bind fun f _ => by
    cases f with
    | false => exact .error hoff
    | true => exact .ok ()

theorem stopsOnly_pNeg (p : PointReg w) : StopsOnly allowed (pNeg c p) :=
  .ite (fun _ => .ok _) fun _ => (stopsOnly_fNeg hneg _).bind fun _ _ => .ok _

theorem stopsOnly_addFinish (r1 s1 r2 m : Int) :
    StopsOnly allowed (addFinish c r1 s1 r2 m : Alg (PointReg w)) :=
  (stopsOnly_reduce hneg _).bind fun _ _ => (stopsOnly_reduce hneg _).bind fun _ _ =>
    (stopsOnly_fNeg hneg _).bind fun _ _ => .ok _

variable (hdiv : allowed (.raised .divisionByZero)) (hfall : allowed (.fatal .addCaseFallThrough))
include hdiv hfall

theorem stopsOnly_addAffine (p q : PointReg w) : StopsOnly allowed (addAffine c p q) :=
  .ite
    (fun _ => (stopsOnly_fDiv hneg _ _ hdiv).bind fun _ _ => stopsOnly_addFinish hneg _ _ _ _)
    fun _ => (stopsOnly_fNeg hneg _).bind fun _ _ =>
      .ite (fun _ => .ok _) fun _ => .ite (fun _ => .ok _) fun _ => .ite
        (fun _ => (stopsOnly_fDiv hneg _ _ hdiv).bind fun _ _ => stopsOnly_addFinish hneg _ _ _ _)
        fun _ => .error hfall

theorem stopsOnly_pAdd (p q : PointReg w) : StopsOnly allowed (pAdd c p q) :=
  .ite (fun _ => .ok _) fun _ => .ite (fun _ => .ok _) fun _ => .ite (fun _ => .ok _) fun _ =>
    stopsOnly_addAffine hneg hdiv hfall p q

theorem stopsOnly_pMulLoop (p : PointReg w) (n k : Nat) (acc : PointReg w) :
    StopsOnly allowed (pMulLoop c p n k acc) := by
  induction k generalizing acc with
  | zero => exact .ok acc
  | succ k ih =>
    exact (stopsOnly_pAdd hneg hdiv hfall _ _).bind fun _ _ =>
      .ite (fun _ => (stopsOnly_pAdd hneg hdiv hfall _ _).bind fun _ _ => ih _) fun _ => ih _

end

/-! ### What the results are (60_exceptions R186) -/

section
variable {f : FieldCfg} {x y : Int} {v : Nat}

/-- What `f_add` answers is an integer reduced. -/
theorem reduce_of_fAdd_eq_ok (h : fAdd f x y = .ok v) : ∃ n, reduce f n = .ok v := by
  unfold fAdd at h
  split_ifs at h
  · exact ⟨_, h⟩
  · cases h
  · exact ⟨_, h⟩

/-- What `f_inv` answers is an integer reduced. -/
theorem reduce_of_fInv_eq_ok (h : fInv f x = .ok v) : ∃ n, reduce f n = .ok v := by
  obtain ⟨r, -, h⟩ := bind_eq_ok.mp h
  obtain ⟨-, -, h⟩ := bind_eq_ok.mp h
  exact ⟨_, h⟩

/-- What `f_div` answers is an integer reduced. -/
theorem reduce_of_fDiv_eq_ok (h : fDiv f x y = .ok v) : ∃ n, reduce f n = .ok v := by
  obtain ⟨i, -, h⟩ := bind_eq_ok.mp h
  exact ⟨_, h⟩

/-- What `f_neg` answers is 0 or the difference of `FBASE` and an integer reduced. -/
theorem reduce_of_fNeg_eq_ok {u : Int} (h : fNeg f x = .ok u) :
    ∃ r, reduce f x = .ok r ∧ u = if r = 0 then 0 else (f.base : Int) - r := by
  obtain ⟨r, hr, h⟩ := bind_eq_ok.mp h
  exact ⟨r, hr, (Except.ok.inj h).symm⟩

end

section
variable {w : Nat} {s : State w} (h : Inv s) (hfv : s.fv = true)
include h hfv

/-- Under the invariant a reduced integer fits: a residue, because `FBASE` does, or a remainder of
polynomials, because `FREL` does. -/
theorem Inv.reduce_lt_two_pow {n : Int} {v : Nat} (hv : reduce s.field n = .ok v) : v < 2 ^ w := by
  cases hfp : s.fp with
  | true =>
    have hbase := h.baseAtLeastTwo hfv
    exact (reduce_lt (f := s.field) hfp (show 0 < s.fbase.toNat by omega) hv).trans s.fbase.isLt
  | false =>
    rw [reduce_nonPrime (f := s.field) hfp] at hv
    split_ifs at hv
    obtain rfl := Except.ok.inj hv
    have hrel := field_rel_ne_zero (h.nonPrimeHasRelation hfv hfp).2
    exact (reducePoly_isPolyRemainder _ hrel).lt_two_pow s.frel.isLt

/-- Under the invariant the negative of a field element fits. -/
theorem Inv.fNeg_natAbs_lt {x u : Int} (hu : fNeg s.field x = .ok u) : u.natAbs < 2 ^ w := by
  obtain ⟨r, hr, rfl⟩ := reduce_of_fNeg_eq_ok hu
  have hrlt := h.reduce_lt_two_pow hfv hr
  have hbase : s.field.base < 2 ^ w := s.fbase.isLt
  split <;> omega

end

section
variable {s : State} (h : Inv s) (hfv : s.fv = true)
include h hfv

/-- Under the invariant `f_char` answers a value that fits. -/
theorem Inv.fChar_answers :
    ∃ v, fChar s.field (if s.chv then some s.fchr.toNat else none) = .ok v ∧ v < 2 ^ Config.W := by
  cases hfp : s.fp with
  | true => exact ⟨_, fChar_prime (f := s.field) hfp _, s.fbase.isLt⟩
  | false =>
    have hrel := field_rel_ne_zero (h.nonPrimeHasRelation hfv hfp).2
    cases s.chv with
    | true => exact ⟨_, fChar_cached (f := s.field) hfp _, s.fchr.isLt⟩
    | false => exact ⟨_, fChar_uncached (f := s.field) hfp hrel, by split <;> decide⟩

/-- Under the invariant the roots that `f_sqrt` answers fit. -/
theorem Inv.fSqrt_natAbs_lt (hfp : s.fp = true) (hbase : s.fbase ≠ 2) {a : Nat} {roots : Nat × Int}
    (hr : fSqrt s.field a = .ok roots) :
    roots.1 < 2 ^ Config.W ∧ roots.2.natAbs < 2 ^ Config.W := by
  have hp : s.field.base.Prime := (h.primeFlagExact hfv).mp hfp
  have hfits : s.field.base < 2 ^ Config.W := s.fbase.isLt
  have hodd : s.field.base ≠ 2 := fun h2 => hbase (BitVec.eq_of_toNat_eq h2)
  by_cases hsq : (a : ZMod s.field.base) ≠ 0 ∧ IsSquare (a : ZMod s.field.base)
  · obtain ⟨root, -, hlt, -, -, hans⟩ := fSqrt_of_isSquare (f := s.field) hfp hp hodd hsq.1 hsq.2
    obtain rfl := Except.ok.inj (hans.symm.trans hr)
    exact ⟨hlt.trans hfits, show ((s.field.base : Int) - root).natAbs < 2 ^ Config.W by omega⟩
  · rw [fSqrt_of_not_isSquare hp hodd hsq] at hr
    cases hr

end

end Sys2Proof.Machine
end

section
/-!
PROOFS of the exceptions family, third part: the 25 commands, each walked once, and the statements about
the errors they raise (60_exceptions R183, R185 to R187).
-/
namespace Sys2Proof.Machine

/-! ### The end of a command names its stop -/

section
variable {w : Nat} {s : State w} {r : Alg (State w)}

/-- 60_exceptions R187: two fatal causes with one code are one. -/
theorem fatalCause_code_inj {c d : FatalCause} (h : c.code = d.code) : c = d := by
  revert h
  cases c <;> cases d <;> decide

/-- A command ends with the code of a typed error exactly when it raises that error. -/
theorem command_eq_afterError {e : TypedError} :
    s.command r = .next (afterError s e.code) ↔ r = .error (.raised e) := by
  refine ⟨fun h => ?_, command_raised⟩
  rw [command_eq_next] at h
  rcases finish_cases s r with ⟨t, -, hend⟩ | ⟨e', hr, hend⟩ | ⟨c, -, hend⟩
  · exact absurd (congrArg State.err (h.trans hend)) (typedError_code_range e).1
  · rw [hr, typedError_code_inj (congrArg State.err (h.trans hend))]
  · cases congrArg State.phase (h.trans hend)

/-- A command ends with a fatal cause exactly when it goes fatal for it. -/
theorem command_eq_afterFatal {c : FatalCause} :
    s.command r = .next (afterFatal s c.code) ↔ r = .error (.fatal c) := by
  refine ⟨fun h => ?_, command_fatal⟩
  rw [command_eq_next] at h
  rcases finish_cases s r with ⟨t, -, hend⟩ | ⟨e, -, hend⟩ | ⟨c', hr, hend⟩
  · cases congrArg State.phase (h.trans hend)
  · cases congrArg State.phase (h.trans hend)
  · rw [hr, fatalCause_code_inj (congrArg State.fcause (h.trans hend))]

end

/-! ### What a command may stop for -/

/-- What R183, R185, R186 and R187 say of a stop of command `i` in state `s`: `InvalidOperand` has a refused
operand, and under the invariant a typed error is listed and is not `ResultRange`, and a fatal stop is a
reduction in non-prime mode. -/
def StopAllowed {w : Nat} (i : Instr) (s : State w) : Stop → Prop
  | .raised e => (e = .invalidOperand → refusesOperands i s) ∧
      (Inv s → e ∈ mayRaise i ∧ e ≠ .resultRange)
  | .fatal c => Inv s →
      c = .negativeNonPrimeReduce ∧ mayGoFatal i = true ∧ s.fv = true ∧ s.fp = false

/-- The errors listed for a command, but for the two that a statement of their own speaks of. -/
def lists (i : Instr) (e : TypedError) : Bool :=
  decide (e ∈ mayRaise i ∧ e ≠ .invalidOperand ∧ e ≠ .resultRange)

section
variable {w : Nat} {i : Instr} {s : State w}

theorem stopAllowed_of_lists {e : TypedError} (h : lists i e = true) : StopAllowed i s (.raised e) := by
  obtain ⟨hmem, hoperand, hrange⟩ := of_decide_eq_true h
  exact ⟨fun he => absurd he hoperand, fun _ => ⟨hmem, hrange⟩⟩

/-- The commands with operands to refuse are listed for `InvalidOperand`. -/
theorem mem_mayRaise_of_refusesOperands (h : refusesOperands i s) : .invalidOperand ∈ mayRaise i := by
  cases i with
  | powmod | redpoly | gcd | xgcd | fldnewr | fpow | fsqrt | ecpoint | ecchk => simp [mayRaise]
  | _ => exact absurd h id

theorem stopAllowed_invalidOperand (h : refusesOperands i s) :
    StopAllowed i s (.raised .invalidOperand) :=
  ⟨fun _ => h, fun _ => ⟨mem_mayRaise_of_refusesOperands h, nofun⟩⟩

/-- A reduction in non-prime mode may stop the commands that are listed for it. -/
theorem stopAllowed_nonPrime (hi : mayGoFatal i = true) (hfv : s.fv = true)
    (hprime : s.field.prime = false) : StopAllowed i s (.fatal .negativeNonPrimeReduce) :=
  fun _ => ⟨rfl, hi, hfv, hprime⟩

/-- In prime mode there is no reduction in non-prime mode. -/
theorem stopAllowed_prime {c : FatalCause} (hfp : Inv s → s.fp = true)
    (hprime : s.field.prime = false) : StopAllowed i s (.fatal c) :=
  fun hinv => absurd ((hfp hinv).symm.trans hprime) nofun

namespace StopsOnly
variable {α : Type}

/-- A computation that raises no `InvalidOperand` and that answers under the invariant. -/
theorem of_answers {x : Alg α} {post : α → Prop} (hx : StopsOnly (· ≠ .raised .invalidOperand) x)
    (hans : Inv s → ∃ v, x = .ok v ∧ post v) : StopsOnly (StopAllowed i s) x := by
  intro r hr
  have hstop : ¬ Inv s := fun hinv => by
    obtain ⟨v, hv, -⟩ := hans hinv
    cases hr.symm.trans hv
  cases r with
  | raised e =>
    exact ⟨fun he => absurd (congrArg Stop.raised he) (hx _ hr), fun hinv => absurd hinv hstop⟩
  | fatal c => exact fun hinv => absurd hinv hstop

/-- A check whose error is listed. -/
theorem listed {ok : Bool} {e : TypedError} {f : Unit → Alg α} (he : lists i e = true)
    (hf : ok = true → StopsOnly (StopAllowed i s) (f ())) :
    StopsOnly (StopAllowed i s) (require ok e >>= f) :=
  .check (fun _ => stopAllowed_of_lists he) hf

/-- The check of an X source that must not be negative (60_exceptions R185). -/
theorem nonneg {v : Int} {f : Unit → Alg α} (hrefused : v < 0 → refusesOperands i s)
    (hf : 0 ≤ v → StopsOnly (StopAllowed i s) (f ())) :
    StopsOnly (StopAllowed i s) (requireNonneg v >>= f) :=
  .check (fun h => stopAllowed_invalidOperand (hrefused (not_le.mp (of_decide_eq_false h))))
    fun h => hf (of_decide_eq_true h)

/-- The check of an X source that must be positive (60_exceptions R185). -/
theorem positive {v : Int} {f : Unit → Alg α} (hrefused : v ≤ 0 → refusesOperands i s)
    (hf : 0 < v → StopsOnly (StopAllowed i s) (f ())) :
    StopsOnly (StopAllowed i s) (requirePositive v >>= f) :=
  .check (fun h => stopAllowed_invalidOperand (hrefused (not_lt.mp (of_decide_eq_false h))))
    fun h => hf (of_decide_eq_true h)

/-- A P source: the three errors of its tag are listed for every command that has one (46_curve R164). -/
theorem source {j : RegIdx} {f : PointReg w → Alg α} (hempty : lists i .notConfigured = true)
    (hfield : lists i .pointsNotSameField = true) (hcurve : lists i .pointsNotSameCurve = true)
    (hf : ∀ p, sourceP s j = .ok p → StopsOnly (StopAllowed i s) (f p)) :
    StopsOnly (StopAllowed i s) (sourceP s j >>= f) := by
  refine .bind (.bind ?_ fun _ _ => .ok _) hf
  rcases checkTag_cases (s.readP j).tag with ⟨-, h⟩ | ⟨-, h⟩ | ⟨-, h⟩ | ⟨-, h⟩ <;> rw [h]
  · exact .ok ()
  · exact .error (stopAllowed_of_lists hempty)
  · exact .error (stopAllowed_of_lists hfield)
  · exact .error (stopAllowed_of_lists hcurve)

/-- The range check of a result that fits under the invariant (60_exceptions R186). -/
theorem range {v : Int} {f : Unit → Alg α} (hfits : Inv s → v.natAbs < 2 ^ w)
    (hf : StopsOnly (StopAllowed i s) (f ())) : StopsOnly (StopAllowed i s) (checkRange w v >>= f) :=
  .check (fun h => ⟨nofun, fun hinv => absurd (hfits hinv) (of_decide_eq_false h)⟩) fun _ => hf

variable {t : State w}

theorem commitX {a : RegIdx} {v : Int} (hfits : Inv s → v.natAbs < 2 ^ w) :
    StopsOnly (StopAllowed i s) (commitX t a v) :=
  .range hfits (.ok _)

theorem commitX2 {a b : RegIdx} {v u : Int} (hv : Inv s → v.natAbs < 2 ^ w)
    (hu : Inv s → u.natAbs < 2 ^ w) : StopsOnly (StopAllowed i s) (commitX2 t a b v u) :=
  .range hv (.range hu (.ok _))

theorem commitX3 {a b c : RegIdx} {v u z : Int} (hv : Inv s → v.natAbs < 2 ^ w)
    (hu : Inv s → u.natAbs < 2 ^ w) (hz : Inv s → z.natAbs < 2 ^ w) :
    StopsOnly (StopAllowed i s) (commitX3 t a b c v u z) :=
  .range hv (.range hu (.range hz (.ok _)))

end StopsOnly
end

/-! ### The commands -/

/-- The computation of a command stops only for what is allowed. -/
theorem exec_stopsOnly (i : Instr) (s : State) :
    ∃ r, exec i s = s.command r ∧ StopsOnly (StopAllowed i s) r := by
  cases i with
  | nop => exact ⟨_, rfl, .ok s⟩
  | powmod a b c d =>
    exact ⟨_, rfl, .nonneg .inl fun _ => .nonneg (.inr ∘ .inl) fun _ =>
      .positive (.inr ∘ .inr) fun hd => .commitX fun _ =>
      (powMod_le _ _ (by omega)).trans_lt (readX_toNat_lt s d)⟩
  | redpoly a b c =>
    exact ⟨_, rfl, .nonneg .inl fun _ => .positive .inr fun hc => .commitX fun _ =>
      (reducePoly_isPolyRemainder _ (by omega)).lt_two_pow (readX_toNat_lt s c)⟩
  | gcd a b c =>
    exact ⟨_, rfl, .nonneg .inl fun _ => .nonneg .inr fun _ => .commitX fun _ =>
      (egcd_fst _ _).trans_lt (gcd_lt_two_pow (readX_toNat_lt s b) (readX_toNat_lt s c))⟩
  | xgcd a b c d e =>
    obtain ⟨hg, hx, hy⟩ :=
      egcd_lt_two_pow (by decide : 0 < Config.W) (readX_toNat_lt s d) (readX_toNat_lt s e)
    exact ⟨_, rfl, .listed rfl fun _ => .listed rfl fun _ => .listed rfl fun _ =>
      .nonneg .inl fun _ => .nonneg .inr fun _ => .commitX3 (fun _ => hg) (fun _ => hx) fun _ => hy⟩
  | fldnew b =>
    refine ⟨_, rfl, .listed rfl fun _ => .ite (fun _ => .ok _) fun _ => ?_⟩
    split
    · exact .ok _
    · exact .error (stopAllowed_of_lists rfl)
  | fldnewr b c =>
    exact ⟨_, rfl, .nonneg id fun _ => .listed rfl fun _ => .listed rfl fun _ => .ok _⟩
  | fred | fmul =>
    exact ⟨_, rfl, .listed rfl fun hfv => (stopsOnly_reduce (stopAllowed_nonPrime rfl hfv) _).bind
      fun _ hv => .commitX fun hinv => hinv.reduce_lt_two_pow hfv hv⟩
  | fadd a b c =>
    refine ⟨_, rfl, .listed rfl fun hfv => (stopsOnly_fAdd (stopAllowed_nonPrime rfl hfv) _ _).bind
      fun _ hv => .commitX fun hinv => ?_⟩
    obtain ⟨n, hn⟩ := reduce_of_fAdd_eq_ok hv
    exact hinv.reduce_lt_two_pow hfv hn
  | fpow a b c =>
    refine ⟨_, rfl, .listed rfl fun hfv => .nonneg .inl fun _ =>
      .nonneg .inr fun _ => .commitX fun hinv => ?_⟩
    have hbase := hinv.baseAtLeastTwo hfv
    exact (powMod_le _ _ (show 0 < s.fbase.toNat by omega)).trans_lt s.fbase.isLt
  | fneg a b =>
    exact ⟨_, rfl, .listed rfl fun hfv => (stopsOnly_fNeg (stopAllowed_nonPrime rfl hfv) _).bind
      fun _ hv => .commitX fun hinv => hinv.fNeg_natAbs_lt hfv hv⟩
  | finv a b =>
    refine ⟨_, rfl, .listed rfl fun hfv =>
      (stopsOnly_fInv (stopAllowed_nonPrime rfl hfv) _ (stopAllowed_of_lists rfl)).bind
      fun _ hv => .commitX fun hinv => ?_⟩
    obtain ⟨n, hn⟩ := reduce_of_fInv_eq_ok hv
    exact hinv.reduce_lt_two_pow hfv hn
  | fdiv a b c =>
    refine ⟨_, rfl, .listed rfl fun hfv =>
      (stopsOnly_fDiv (stopAllowed_nonPrime rfl hfv) _ _ (stopAllowed_of_lists rfl)).bind
      fun _ hv => .commitX fun hinv => ?_⟩
    obtain ⟨n, hn⟩ := reduce_of_fDiv_eq_ok hv
    exact hinv.reduce_lt_two_pow hfv hn
  | fsqrt a b c =>
    refine ⟨_, rfl, .listed rfl fun _ => .listed rfl fun hfv => .listed rfl fun hkind => ?_⟩
    obtain ⟨hfp, hbase⟩ := Bool.and_eq_true_iff.mp hkind
    have hroots {roots : Nat × Int} (hr : fSqrt s.field (s.readX c).toNat = .ok roots) (hinv : Inv s) :=
      hinv.fSqrt_natAbs_lt hfv hfp (bne_iff_ne.mp hbase) hr
    exact .nonneg id fun _ =>
      (stopsOnly_fSqrt (stopAllowed_prime fun _ => hfp) _ (stopAllowed_of_lists rfl)).bind fun _ hr =>
        .commitX2 (fun hinv => (hroots hr hinv).1) fun hinv => (hroots hr hinv).2
  | fchar a =>
    exact ⟨_, rfl, .listed rfl fun hfv =>
      .bind (.of_answers (stopsOnly_fChar (fun _ => nofun) _) fun hinv => hinv.fChar_answers hfv)
        fun _ hv => .commitX fun hinv => post_of_answers (hinv.fChar_answers hfv) hv⟩
  | ecnew b c =>
    exact ⟨_, rfl, .listed rfl fun _ => .listed rfl fun hfp =>
      (stopsOnly_reduce (stopAllowed_prime fun _ => hfp) _).bind fun _ _ =>
      (stopsOnly_reduce (stopAllowed_prime fun _ => hfp) _).bind fun _ _ =>
      (stopsOnly_reduce (stopAllowed_prime fun _ => hfp) _).bind fun _ _ => .listed rfl fun _ => .ok _⟩
  | ecpoint a b c =>
    refine ⟨_, rfl, .listed rfl fun hcv => ?_⟩
    have hfp (hinv : Inv s) : s.fp = true := (hinv.curveNeedsPrimeField hcv).2
    exact .nonneg .inl fun _ => .nonneg .inr fun _ =>
      (stopsOnly_reduce (stopAllowed_prime hfp) _).bind fun _ _ =>
      (stopsOnly_reduce (stopAllowed_prime hfp) _).bind fun _ _ =>
      (stopsOnly_onCurve (stopAllowed_prime hfp) _ _).bind fun _ _ => .listed rfl fun _ => .ok _
  | ecchk b c =>
    refine ⟨_, rfl, .listed rfl fun hcv => ?_⟩
    have hfp (hinv : Inv s) : s.fp = true := (hinv.curveNeedsPrimeField hcv).2
    exact .nonneg .inl fun _ => .nonneg .inr fun _ =>
      (stopsOnly_reduce (stopAllowed_prime hfp) _).bind fun _ _ =>
      (stopsOnly_reduce (stopAllowed_prime hfp) _).bind fun _ _ =>
      (stopsOnly_onCurve (stopAllowed_prime hfp) _ _).bind fun _ _ => .ok _
  | ecinf a => exact ⟨_, rfl, .listed rfl fun _ => .ok _⟩
  | ecadd a b c =>
    exact ⟨_, rfl, .listed rfl fun hcv => .source rfl rfl rfl fun _ hp => .source rfl rfl rfl fun _ hq =>
      .bind (.of_answers (stopsOnly_pAdd (fun _ => nofun) nofun nofun _ _) fun hinv =>
        pAdd_onCurve (hinv.isPrimeCurve hcv) (hinv.sourceP_isCurvePoint hp)
          (hinv.sourceP_isCurvePoint hq)) fun _ _ => .ok _⟩
  | ecneg a b =>
    exact ⟨_, rfl, .listed rfl fun hcv => .source rfl rfl rfl fun _ hp =>
      .bind (.of_answers (stopsOnly_pNeg (fun _ => nofun) _) fun hinv =>
        pNeg_onCurve (hinv.isPrimeCurve hcv) (hinv.sourceP_isCurvePoint hp)) fun _ _ => .ok _⟩
  | ecmul a b c =>
    refine ⟨_, rfl, .listed rfl fun hcv => .source rfl rfl rfl fun _ hp => ?_⟩
    have hfp (hinv : Inv s) : s.fp = true := (hinv.curveNeedsPrimeField hcv).2
    exact (stopsOnly_checkOnCurve (stopAllowed_prime hfp) _ (stopAllowed_of_lists rfl)).bind fun _ _ =>
      .listed rfl fun _ =>
      .bind (.of_answers (stopsOnly_pMulLoop (fun _ => nofun) nofun nofun _ _ _ _) fun hinv =>
        pMul_onCurve (hinv.isPrimeCurve hcv) (hinv.sourceP_isCurvePoint hp) _) fun _ _ => .ok _
  | ecget a b c =>
    exact ⟨_, rfl, .listed rfl fun _ => .listed rfl fun _ => .source rfl rfl rfl fun p _ =>
      .commitX2 (fun _ => p.r.isLt) fun _ => p.s.isLt⟩
  | eceq b c =>
    exact ⟨_, rfl, .listed rfl fun _ => .source rfl rfl rfl fun _ _ => .source rfl rfl rfl fun _ _ =>
      .ok _⟩

/-- A command that ends with a typed error was allowed to raise it. -/
theorem stopAllowed_of_afterError {i : Instr} {s : State} {e : TypedError}
    (h : exec i s = .next (afterError s e.code)) : StopAllowed i s (.raised e) := by
  obtain ⟨r, hr, hstops⟩ := exec_stopsOnly i s
  exact hstops _ (command_eq_afterError.mp (hr.symm.trans h))

/-- A command that goes fatal was allowed to. -/
theorem stopAllowed_of_afterFatal {i : Instr} {s : State} {c : FatalCause}
    (h : exec i s = .next (afterFatal s c.code)) : StopAllowed i s (.fatal c) := by
  obtain ⟨r, hr, hstops⟩ := exec_stopsOnly i s
  exact hstops _ (command_eq_afterFatal.mp (hr.symm.trans h))

/-! ### Refused operands (60_exceptions R185) -/

section
variable {α : Type} {v : Int} {f : Unit → Alg α}

/-- A check of an X source ends the command when the operand is negative, or when what comes after the
check does. -/
theorem requireNonneg_bind_refused (h : v < 0 ∨ f () = raise .invalidOperand) :
    (requireNonneg v >>= f) = raise .invalidOperand := by
  by_cases hv : 0 ≤ v
  · rw [requireNonneg_of_nonneg hv]
    exact h.resolve_left (not_lt.mpr hv)
  · rw [requireNonneg, decide_eq_false hv]
    rfl

/-- The last of a command's operand checks, on a source that must be positive. -/
theorem requirePositive_bind_refused (h : v ≤ 0) :
    (requirePositive v >>= f) = raise .invalidOperand := by
  rw [requirePositive, decide_eq_false (not_lt.mpr h)]
  rfl

/-- Two sources that must not be negative. -/
theorem requireNonneg_two_bind_refused {u : Int} (h : v < 0 ∨ u < 0) :
    (requireNonneg v >>= fun _ => requireNonneg u >>= f) = raise .invalidOperand :=
  requireNonneg_bind_refused (h.imp_right fun hu => requireNonneg_bind_refused (.inl hu))

end

/-- A command that raises `InvalidOperand` sets `ERR` to its code, 11 (60_exceptions R182). -/
theorem command_of_invalidOperand {w : Nat} {s : State w} {r : Alg (State w)}
    (h : r = raise .invalidOperand) : s.command r = .next (afterError s 11) :=
  command_raised (e := .invalidOperand) h

/-- A command that passes the phases before its operand checks ends with `InvalidOperand` when it refuses
its operands. -/
theorem exec_of_refusesOperands {i : Instr} {s : State} (hreach : reachesOperandPhase i s)
    (hrefused : refusesOperands i s) : exec i s = .next (afterError s 11) := by
  obtain ⟨hwf, hfield, hcurve, hsqrt⟩ := hreach
  cases i with
  | powmod a b c d =>
    exact command_of_invalidOperand (requireNonneg_bind_refused (hrefused.imp_right fun hrest =>
      requireNonneg_bind_refused (hrest.imp_right requirePositive_bind_refused)))
  | redpoly a b c =>
    exact command_of_invalidOperand
      (requireNonneg_bind_refused (hrefused.imp_right requirePositive_bind_refused))
  | gcd a b c => exact command_of_invalidOperand (requireNonneg_two_bind_refused hrefused)
  | xgcd a b c d e =>
    obtain ⟨⟨hab, hac⟩, hbc⟩ : (a ≠ b ∧ a ≠ c) ∧ b ≠ c := by simpa [Instr.wellFormed] using hwf
    exact command_of_invalidOperand ((requireDistinct_bind hab _).trans
      ((requireDistinct_bind hac _).trans ((requireDistinct_bind hbc _).trans
        (requireNonneg_two_bind_refused hrefused))))
  | fldnewr b c => exact command_of_invalidOperand (requireNonneg_bind_refused (.inl hrefused))
  | fpow a b c =>
    exact command_of_invalidOperand ((requireField_bind (hfield rfl) _).trans
      (requireNonneg_two_bind_refused hrefused))
  | fsqrt a b c =>
    obtain ⟨hfp, hbase⟩ := hsqrt a b c rfl
    change execFsqrt a b c s = _
    rw [execFsqrt, requireDistinct_bind (bne_iff_ne.mp hwf), requireField_bind (hfield rfl), hfp,
      bne_iff_ne.mpr hbase]
    exact command_of_invalidOperand (requireNonneg_bind_refused (.inl hrefused))
  | ecpoint a b c | ecchk b c =>
    exact command_of_invalidOperand ((requireCurve_bind (hcurve rfl) _).trans
      (requireNonneg_two_bind_refused hrefused))
  | _ => exact absurd hrefused id

end Sys2Proof.Machine

section
open Sys2Proof Sys2Proof.Machine

/-- Settles O23: the operand checks in their order, and no other check of any command raises the code. -/
theorem operandSignsAreChecked : Obligations.OperandSignsAreChecked :=
  fun _ _ => ⟨exec_of_refusesOperands,
    fun h => (stopAllowed_of_afterError (e := .invalidOperand) h).1 rfl⟩

/-- Settles O29: every value that a command writes is bounded by a register. -/
theorem resultRangeNeverOccurs : Obligations.ResultRangeNeverOccurs := by
  intro i s hinv h
  obtain ⟨-, hrange⟩ := (stopAllowed_of_afterError (e := .resultRange) h).2 hinv
  exact hrange rfl

/-- Settles O30: the stops of every command, held to the lists of R183 and R187. -/
theorem commandsRaiseOnlyListedErrors : Obligations.CommandsRaiseOnlyListedErrors := by
  intro i s hinv
  constructor
  · intro e h
    obtain ⟨hlisted, -⟩ := (stopAllowed_of_afterError h).2 hinv
    exact hlisted
  · intro c h
    exact stopAllowed_of_afterFatal h hinv

end
end
